-- ==== Sys2Proof/Word.lean ====
section
/-! DEFINITION. The two word types of the block: the byte (00_scope.md R8) and the 16-bit value of the host port
(20_memory.md R41). -/

namespace Sys2Proof

/-- A byte: an 8-bit unsigned value, bit 7 the most significant (00_scope.md R8). -/
abbrev Byte := BitVec 8

/-- A value on the host port: 16 bits, a number with no byte order (20_memory.md R41, R46). -/
abbrev PortWord := BitVec 16

end Sys2Proof
end

