-- ==== Sys2Proof/Config.lean ====
section
/-! DEFINITION. What one build of the block fixes: the parameters of 00_scope.md R6 as plain data, the constraints on
them (R6, R7), the reference configuration of the spec's vectors, and the free values. -/

namespace Sys2Proof

/-- The closed set of frame kinds: seven constructors, none for 0x03 and none for 0x08 to 0xFF
(30_encoding.md R65 to R67, 43_frame_model.md R125, R137). -/
inductive Kind where
  | ping | assignID | requestData | setStandby | setDischarge | setCharge | announceCompletion
deriving DecidableEq, Repr

/-- A value for each kind, as plain data. -/
structure PerKind (α : Type) where
  ping : α
  assignID : α
  requestData : α
  setStandby : α
  setDischarge : α
  setCharge : α
  announceCompletion : α
deriving DecidableEq, Repr

def PerKind.get {α : Type} (t : PerKind α) : Kind → α
  | .ping => t.ping
  | .assignID => t.assignID
  | .requestData => t.requestData
  | .setStandby => t.setStandby
  | .setDischarge => t.setDischarge
  | .setCharge => t.setCharge
  | .announceCompletion => t.announceCompletion

/-- `FIELD_ENDIAN` (00_scope.md R6). -/
inductive FieldEndian where
  | big | little
deriving DecidableEq, Repr

/-- `TRAILING_POLICY` (00_scope.md R6, 43_frame_model.md R142). -/
inductive TrailingPolicy where
  | reject | ignore
deriving DecidableEq, Repr

/-- The open parameters of 00_scope.md R6: `LW`, `ARGLEN`, `FIELDS`, `FIELD_ENDIAN`. -/
structure Config where
  lw : Nat
  arglen : PerKind Nat
  fields : PerKind (List Nat)
  fieldEndian : FieldEndian
deriving DecidableEq, Repr

/-- `NMAX = 2^LW - 1`, the largest input length (00_scope.md R6). -/
def Config.nmax (c : Config) : Nat := 2 ^ c.lw - 1

/-- `ARGLEN(k)` (00_scope.md R7). -/
def Config.arglenOf (c : Config) (k : Kind) : Nat := c.arglen.get k

/-- `TRAILING_POLICY` is decided: REJECT, always (43_frame_model.md R142). -/
def Config.trailingPolicy : TrailingPolicy := .reject

/-- `FIELDS(k)`: positive widths that sum to `ARGLEN(k)` (00_scope.md R6). -/
def Config.fieldsOk (c : Config) (k : Kind) : Bool :=
  (c.fields.get k).all (fun w => decide (1 ≤ w)) && (c.fields.get k).sum == c.arglenOf k

/-- The constraints of 00_scope.md R6 and R7: a configuration that breaks one is not a configuration of this hardware. -/
abbrev Config.wf (c : Config) : Prop :=
  3 ≤ c.lw ∧ c.lw ≤ 15
  ∧ c.arglen.ping = 0 ∧ 1 ≤ c.arglen.assignID ∧ c.arglen.setStandby = 0 ∧ 1 ≤ c.arglen.setDischarge
  ∧ 1 ≤ c.arglen.setCharge ∧ 1 ≤ c.arglen.announceCompletion
  ∧ c.arglen.ping + 3 ≤ c.nmax ∧ c.arglen.assignID + 3 ≤ c.nmax ∧ c.arglen.requestData + 3 ≤ c.nmax
  ∧ c.arglen.setStandby + 3 ≤ c.nmax ∧ c.arglen.setDischarge + 3 ≤ c.nmax ∧ c.arglen.setCharge + 3 ≤ c.nmax
  ∧ c.arglen.announceCompletion + 3 ≤ c.nmax
  ∧ c.fieldsOk .ping = true ∧ c.fieldsOk .assignID = true ∧ c.fieldsOk .requestData = true
  ∧ c.fieldsOk .setStandby = true ∧ c.fieldsOk .setDischarge = true ∧ c.fieldsOk .setCharge = true
  ∧ c.fieldsOk .announceCompletion = true

/-- The configuration of the spec's vectors: `LW = 8` and `ARGLEN_REF` (00_scope.md R7, 95_test_vectors.md), one field
per kind that has arguments, big-endian (DESIGN CHOICE, log 1). -/
def Config.ref : Config where
  lw := 8
  arglen := ⟨0, 1, 0, 0, 2, 2, 1⟩
  fields := ⟨[], [1], [], [], [2], [2], [1]⟩
  fieldEndian := .big

/-- FREE VALUE (log 7): what the storage cell `OBUF[j]` holds while no command has written it (10_state.md R24,
93_implementation_defined.md U5). -/
opaque Config.obufCell : Nat → Byte

/-- FREE VALUE (log 8): what the storage cell `IBUF[i]` holds while the host has not written it; only the byte-serial
datapath, below the architectural level, can reach it (20_memory.md R54, 93_implementation_defined.md U4, U5). -/
opaque Config.ibufCell : Nat → Byte

end Sys2Proof
end

