-- ==== Sys2Proof/Syntax.lean ====
section
/-! DEFINITION. The instructions: one constructor per row of spec/opcode_table.json, with the operands the row's
encoding carries (30_encoding.md R60 to R72). -/

namespace Sys2Proof

/-- The rows of spec/opcode_table.json.

* Format CMD (R71): no operand, a command reads `KIN`, `ILEN` and `IBUF`.
* Format PAYLOAD (R64, R65): the argument bytes; for a reserved or unassigned Frame ID its free bits and the bytes after it.
* Format WIRE (R61): the payload bytes and the checksum byte.
* Format STATUS (R72): no operand. -/
inductive Instr where
  | nop
  | csum
  | enc
  | dec
  | ser
  | des
  | tx
  | rx
  | ping (args : List Byte)
  | assignID (args : List Byte)
  | requestData (args : List Byte)
  | setStandby (args : List Byte)
  | setDischarge (args : List Byte)
  | setCharge (args : List Byte)
  | announceCompletion (args : List Byte)
  | reserved03 (rest : List Byte)
  | unassigned08 (x : BitVec 3) (rest : List Byte)
  | unassigned10 (x : BitVec 4) (rest : List Byte)
  | unassigned20 (x : BitVec 5) (rest : List Byte)
  | unassigned40 (x : BitVec 6) (rest : List Byte)
  | unassigned80 (x : BitVec 7) (rest : List Byte)
  | delim (payload : List Byte) (checksum : Byte)
  | stOK
  | stTooShort
  | stBadDelimiter
  | stBadChecksum
  | stUnknownFrameId
  | stTruncatedPayload
  | stTrailingBytes
deriving DecidableEq, Repr

end Sys2Proof
end

