-- ==== Sys2Proof/WellFormed.lean ====
section
/-! DEFINITION. Which terms of Instr are instructions of a configuration: the argument count is the kind's `ARGLEN`
(43_frame_model.md R125), and what stands in the input buffer fits it (30_encoding.md R77). -/

namespace Sys2Proof

/-- A frame has exactly `ARGLEN(k)` argument bytes (43_frame_model.md R125). -/
def argsFit (c : Config) (k : Kind) (args : List Byte) : Bool := args.length == c.arglenOf k

/-- A byte sequence given to a command fits the `NMAX` bytes of `IBUF` (30_encoding.md R77). -/
def fitsInput (c : Config) (len : Nat) : Bool := decide (len ≤ c.nmax)

def Instr.wellFormed (c : Config) : Instr → Bool
  | .nop | .csum | .enc | .dec | .ser | .des | .tx | .rx => true
  | .ping args => argsFit c .ping args
  | .assignID args => argsFit c .assignID args
  | .requestData args => argsFit c .requestData args
  | .setStandby args => argsFit c .setStandby args
  | .setDischarge args => argsFit c .setDischarge args
  | .setCharge args => argsFit c .setCharge args
  | .announceCompletion args => argsFit c .announceCompletion args
  | .reserved03 rest => fitsInput c (rest.length + 1)
  | .unassigned08 _ rest => fitsInput c (rest.length + 1)
  | .unassigned10 _ rest => fitsInput c (rest.length + 1)
  | .unassigned20 _ rest => fitsInput c (rest.length + 1)
  | .unassigned40 _ rest => fitsInput c (rest.length + 1)
  | .unassigned80 _ rest => fitsInput c (rest.length + 1)
  | .delim payload _ => fitsInput c (payload.length + 2)
  | .stOK | .stTooShort | .stBadDelimiter | .stBadChecksum | .stUnknownFrameId | .stTruncatedPayload
  | .stTrailingBytes => true

end Sys2Proof
end

