-- ==== Sys2Proof/Decode.lean ====
section
/-! DEFINITION. From bits to instructions and back, format by format (30_encoding.md R60): the command code, the
Frame ID map, the wire frame, the status code. Which format applies is told by where the bits stand (the value written
to host address 0, payload byte 0, wire byte 0, the value read at host address 1), never by the bits themselves. -/

namespace Sys2Proof

/-- The fixed delimiter, byte 0 of every wire frame (00_scope.md R5, 30_encoding.md R61). -/
def delimiter : Byte := 0xB3

/-- The Frame ID of a kind (30_encoding.md R65). -/
def Kind.fid : Kind → Byte
  | .ping => 0x00
  | .assignID => 0x01
  | .requestData => 0x02
  | .setStandby => 0x04
  | .setDischarge => 0x05
  | .setCharge => 0x06
  | .announceCompletion => 0x07

/-- The discriminator's map, a total function into "kind or none": all eight bits are compared (30_encoding.md R65 to
R67). -/
def Kind.ofFid (b : Byte) : Option Kind :=
  match b.toNat with
  | 0 => some .ping
  | 1 => some .assignID
  | 2 => some .requestData
  | 4 => some .setStandby
  | 5 => some .setDischarge
  | 6 => some .setCharge
  | 7 => some .announceCompletion
  | _ => none

/-- The formats of spec/opcode_table.json (30_encoding.md R60). HOSTACC is no format of the table: an access on the
port is Machine.HostEvent. -/
inductive Format where
  | cmd | payload | wire | status
deriving DecidableEq, Repr

/-- Why bytes are no instruction of a format. -/
inductive Reject where
  /-- A CMD or STATUS value is one value, not a sequence. -/
  | notOneByte
  /-- A wire frame has at least 2 bytes (30_encoding.md R60). -/
  | tooShort
  /-- Wire byte 0 is not 0xB3 (30_encoding.md R61). -/
  | badDelimiter
  /-- The sequence is longer than `NMAX` bytes (30_encoding.md R77). -/
  | doesNotFit
  /-- Too few bytes for the kind, or no Frame ID byte (43_frame_model.md R128). -/
  | truncatedPayload
  /-- Too many bytes for the kind (43_frame_model.md R128). -/
  | trailingBytes
  /-- `STATUS` before the first command: 0x00 describes no result (30_encoding.md R73). -/
  | noResultYet
  /-- Reserved `STATUS` bits or `CODE` values (30_encoding.md R73). -/
  | reservedStatus
deriving DecidableEq, Repr

/-- Format CMD: bits 2:0 of the value written, bits 15:3 ignored; all eight codes are defined (10_state.md R12,
30_encoding.md R71). -/
def decodeCmd (v : PortWord) : Instr :=
  match (v.extractLsb' 0 3).toNat with
  | 0 => .nop
  | 1 => .csum
  | 2 => .enc
  | 3 => .dec
  | 4 => .ser
  | 5 => .des
  | 6 => .tx
  | _ => .rx

/-- Format STATUS: `VLD` 1, bits 6:4 zero, `CODE` 0 to 6 (30_encoding.md R72, R73). -/
def decodeStatus (b : Byte) : Except Reject Instr :=
  match b.toNat with
  | 0x80 => .ok .stOK
  | 0x81 => .ok .stTooShort
  | 0x82 => .ok .stBadDelimiter
  | 0x83 => .ok .stBadChecksum
  | 0x84 => .ok .stUnknownFrameId
  | 0x85 => .ok .stTruncatedPayload
  | 0x86 => .ok .stTrailingBytes
  | 0x00 => .error .noResultYet
  | _ => .error .reservedStatus

/-- Format WIRE: the delimiter, the payload, the checksum byte (30_encoding.md R61). Whether the checksum is right is
not asked here: that is the meaning of the frame. -/
def decodeWire (c : Config) (w : List Byte) : Except Reject Instr :=
  if w.length < 2 then .error .tooShort
  else if w.headD 0 ≠ delimiter then .error .badDelimiter
  else if c.nmax < w.length then .error .doesNotFit
  else .ok (.delim ((w.drop 1).take (w.length - 2)) (w.getLastD 0))

/-- The instruction of a kind with its argument bytes. -/
def Instr.ofKind : Kind → List Byte → Instr
  | .ping, args => .ping args
  | .assignID, args => .assignID args
  | .requestData, args => .requestData args
  | .setStandby, args => .setStandby args
  | .setDischarge, args => .setDischarge args
  | .setCharge, args => .setCharge args
  | .announceCompletion, args => .announceCompletion args

/-- The reserved row and the five unassigned rows, by the highest set bit of the Frame ID (30_encoding.md R66, R67). -/
def decodeNoKind (fid : Byte) (rest : List Byte) : Instr :=
  if fid.getLsbD 7 then .unassigned80 (fid.extractLsb' 0 7) rest
  else if fid.getLsbD 6 then .unassigned40 (fid.extractLsb' 0 6) rest
  else if fid.getLsbD 5 then .unassigned20 (fid.extractLsb' 0 5) rest
  else if fid.getLsbD 4 then .unassigned10 (fid.extractLsb' 0 4) rest
  else if fid.getLsbD 3 then .unassigned08 (fid.extractLsb' 0 3) rest
  else .reserved03 rest

/-- Format PAYLOAD: byte 0 is the Frame ID, the rest its argument bytes, exactly `ARGLEN` of them
(30_encoding.md R64 to R67). -/
def decodePayload (c : Config) : List Byte → Except Reject Instr
  | [] => .error .truncatedPayload
  | fid :: args =>
    match Kind.ofFid fid with
    | some k =>
      if args.length < c.arglenOf k then .error .truncatedPayload
      else if c.arglenOf k < args.length then .error .trailingBytes
      else .ok (Instr.ofKind k args)
    | none => if c.nmax < args.length + 1 then .error .doesNotFit else .ok (decodeNoKind fid args)

/-- The decoder, total on every byte sequence of every format. -/
def decode (c : Config) (f : Format) (bytes : List Byte) : Except Reject Instr :=
  match f with
  | .cmd =>
    match bytes with
    | [b] => .ok (decodeCmd (b.setWidth 16))
    | _ => .error .notOneByte
  | .status =>
    match bytes with
    | [b] => decodeStatus b
    | _ => .error .notOneByte
  | .wire => decodeWire c bytes
  | .payload => decodePayload c bytes

/-! ### The encoder, written from the tables of 30_encoding.md -/

/-- The format an instruction's row has in spec/opcode_table.json. -/
def Instr.format : Instr → Format
  | .nop | .csum | .enc | .dec | .ser | .des | .tx | .rx => .cmd
  | .ping _ | .assignID _ | .requestData _ | .setStandby _ | .setDischarge _ | .setCharge _ | .announceCompletion _
  | .reserved03 _ | .unassigned08 _ _ | .unassigned10 _ _ | .unassigned20 _ _ | .unassigned40 _ _
  | .unassigned80 _ _ => .payload
  | .delim _ _ => .wire
  | .stOK | .stTooShort | .stBadDelimiter | .stBadChecksum | .stUnknownFrameId | .stTruncatedPayload
  | .stTrailingBytes => .status

/-- The bytes of an instruction in its format: CMD and STATUS one value (30_encoding.md R71, R72), PAYLOAD the Frame ID
and what follows it (R64, R65), WIRE the whole frame (R61). -/
def encode : Instr → List Byte
  | .nop => [0x00]
  | .csum => [0x01]
  | .enc => [0x02]
  | .dec => [0x03]
  | .ser => [0x04]
  | .des => [0x05]
  | .tx => [0x06]
  | .rx => [0x07]
  | .ping args => 0x00 :: args
  | .assignID args => 0x01 :: args
  | .requestData args => 0x02 :: args
  | .setStandby args => 0x04 :: args
  | .setDischarge args => 0x05 :: args
  | .setCharge args => 0x06 :: args
  | .announceCompletion args => 0x07 :: args
  | .reserved03 rest => 0x03 :: rest
  | .unassigned08 x rest => (0b00001#5 ++ x : BitVec 8) :: rest
  | .unassigned10 x rest => (0b0001#4 ++ x : BitVec 8) :: rest
  | .unassigned20 x rest => (0b001#3 ++ x : BitVec 8) :: rest
  | .unassigned40 x rest => (0b01#2 ++ x : BitVec 8) :: rest
  | .unassigned80 x rest => (0b1#1 ++ x : BitVec 8) :: rest
  | .delim payload checksum => delimiter :: (payload ++ [checksum])
  | .stOK => [0x80]
  | .stTooShort => [0x81]
  | .stBadDelimiter => [0x82]
  | .stBadChecksum => [0x83]
  | .stUnknownFrameId => [0x84]
  | .stTruncatedPayload => [0x85]
  | .stTrailingBytes => [0x86]

/-! ### Words as spec/opcode_table.json numbers them

The table gives every row at most one byte, and the four formats share one range of numbers (0x00 is NOP and Ping, 0x80
is ST_OK and lies in UNASSIGNED_80), so a number alone does not say its format. DESIGN CHOICE (log 5): a one-byte word
below 8 is a command, 0xB3 a wire frame, 0x80 to 0x86 a status code, every other one a payload; a longer word is a wire
frame when its first byte is 0xB3 and a payload otherwise. -/

def tableFormat (nbits w : Nat) : Format :=
  let b := w % 256
  if nbits ≤ 8 then
    if b < 8 then .cmd
    else if b = 0xB3 then .wire
    else if 0x80 ≤ b ∧ b ≤ 0x86 then .status
    else .payload
  else if b = 0xB3 then .wire else .payload

/-- The `n` bytes of `w`, the first in bits 7:0. -/
def bytesOf : Nat → Nat → List Byte
  | 0, _ => []
  | n + 1, w => BitVec.ofNat 8 w :: bytesOf n (w / 256)

/-- How many bytes the instruction has: those of the word, and operand bytes of zeros up to the shortest length its
format allows it (2 for a wire frame, `1 + ARGLEN` for a kind). -/
def tableLength (c : Config) (f : Format) (nbits w : Nat) : Nat :=
  let given := max 1 ((nbits + 7) / 8)
  match f with
  | .cmd | .status => 1
  | .wire => max 2 given
  | .payload =>
    match Kind.ofFid (BitVec.ofNat 8 w) with
    | some k => max (1 + c.arglenOf k) given
    | none => given

def tableBytes (c : Config) (nbits w : Nat) : List Byte :=
  bytesOf (tableLength c (tableFormat nbits w) nbits w) (w % 2 ^ (max 8 nbits))

/-- The instruction the decoder reads from a word of spec/opcode_table.json, in the reference configuration. -/
def decodeTableWord (nbits w : Nat) : Option Instr :=
  (decode Config.ref (tableFormat nbits w) (tableBytes Config.ref nbits w)).toOption

end Sys2Proof
end

