-- ==== Sys2Proof/Machine/State.lean ====
section
/-! DEFINITION. The state of one FCODEC instance and why a step can stop (10_state.md). -/

namespace Sys2Proof.Machine

/-- A buffer: the cells that hold a value, as (index, byte), indexes strictly rising. An unlisted index holds no value
(10_state.md R19, R20, R24). -/
abbrev Memory := List Host.Cell

/-- `PH`, the phase of the sequencer (10_state.md R22). -/
inductive Phase where
  | idle | run
deriving DecidableEq, Repr

/-- What the outside can do to the block: one access of the port (20_memory.md R41, 30_encoding.md R74) or the reset
input (70_reset_and_hazards.md R230). -/
inductive HostEvent where
  | read (addr : Nat)
  | write (addr : Nat) (v : PortWord)
  | reset
deriving DecidableEq, Repr

/-- The six errors (60_exceptions.md R200 to R206): results of a command, next states of the machine. -/
inductive FrameError where
  | tooShort | badDelimiter | badChecksum | unknownFrameId | truncatedPayload | trailingBytes
deriving DecidableEq, Repr

/-- What stops the machine. -/
inductive Fault where
  /-- Raised by a port access whose address has more than `AW = LW + 3` bits: the port has no such access (20_memory.md
  R41, 30_encoding.md R74; log 10). Safe: the hardware cannot be given it. -/
  | notAPortAddress
deriving DecidableEq, Repr

/-- What the machine gives no meaning to. -/
inductive Refusal where
  /-- Raised by `exec` for an instruction that has no meaning in this model. Safe. -/
  | notModelled (mnemonic : String)
  /-- Raised by every command but NOP when `ILEN` covers an `IBUF` byte not written since reset: the spec tells a model
  to refuse the step (20_memory.md R54, 70_reset_and_hazards.md R237, 93_implementation_defined.md U4). Safe. -/
  | inputNotWritten
deriving DecidableEq, Repr

/-- The state. `ilen` and `olen` are held zero-extended to the port's 16 bits (log 9). -/
structure State where
  /-- The build's parameters (00_scope.md R6); no step changes them (log 1). -/
  cfg : Config
  /-- `STATUS` (10_state.md R13). -/
  status : Byte
  /-- `KIN` (R14). -/
  kin : Byte
  /-- `KOUT` (R15). -/
  kout : Byte
  /-- `ILEN`, `LW` bits (R16). -/
  ilen : PortWord
  /-- `OLEN`, `LW + 1` bits (R17). -/
  olen : PortWord
  /-- `CHK` (R18). -/
  chk : Byte
  /-- `IBUF`: the bytes written since reset (R19, R24). -/
  ibuf : Memory
  /-- `OBUF`: the stored bytes (R20, R24). -/
  obuf : Memory
  /-- `ACC`, hidden (R22). -/
  acc : Byte
  /-- `IDX`, hidden, an index that never wraps (R22, R23). -/
  idx : Nat
  /-- `PH`, hidden (R22). -/
  ph : Phase
  /-- The host's events still to come, oldest first (20_memory.md R49, 70_reset_and_hazards.md R242; log 2). -/
  port : List HostEvent
  /-- The values the port has returned, oldest first (20_memory.md R41; log 3). -/
  replies : List PortWord
deriving DecidableEq, Repr

/-- The reset state of a build (10_state.md R24): nothing pending on the port, no value returned yet. -/
def State.resetWith (c : Config) : State where
  cfg := c
  status := 0x00
  kin := 0x00
  kout := 0xFF
  ilen := 0
  olen := 0
  chk := 0x00
  ibuf := []
  obuf := []
  acc := 0
  idx := 0
  ph := .idle
  port := []
  replies := []

/-- The reset state of the reference configuration (log 1). -/
def State.reset : State := State.resetWith Config.ref

end Sys2Proof.Machine
end

