-- ==== Sys2Proof/Machine/Codec.lean ====
section
/-! DEFINITION. The functional level of the codec: XORFOLD, CHECKSUM, ENCODE, DECODE, and the frame validator's verdict
(40_checksum.md, 41_encode.md, 42_decode.md). -/

namespace Sys2Proof.Machine

/-- One step of the fold, started at `acc`. -/
def xorfoldFrom (acc : Byte) : List Byte → Byte
  | [] => acc
  | b :: s => xorfoldFrom (acc ^^^ b) s

/-- `XORFOLD(s)` (40_checksum.md R90). -/
def xorfold (s : List Byte) : Byte := xorfoldFrom 0x00 s

/-- `CHECKSUM(p)`: delimiter and payload, nothing else (40_checksum.md R92). -/
def checksum (p : List Byte) : Byte := xorfold (delimiter :: p)

/-- `ENCODE(p)` (41_encode.md R100). -/
def wireEncode (p : List Byte) : List Byte :=
  let body := delimiter :: p
  body ++ [xorfold body]

/-- The verdict of VALID on wire bytes, with the checksum computed so far: the length, the delimiter and the checksum,
the first failure reported (42_decode.md R110 to R112, 45_byte_serial.md R175). On success the payload and the expected
checksum. -/
def validate (w : List Byte) : Except (FrameError × Byte) (List Byte × Byte) :=
  if w.length < 2 then .error (.tooShort, 0x00)
  else if w.headD 0 ≠ delimiter then .error (.badDelimiter, 0x00)
  else
    let e := xorfold (w.take (w.length - 1))
    if e ≠ w.getLastD 0 then .error (.badChecksum, e)
    else .ok ((w.drop 1).take (w.length - 2), e)

/-- `DECODE(w)`: the payload or the error's bare name (42_decode.md R110, 60_exceptions.md R208). -/
def wireDecode (w : List Byte) : Except FrameError (List Byte) :=
  match validate w with
  | .ok (p, _) => .ok p
  | .error (e, _) => .error e

end Sys2Proof.Machine
end

