-- ==== Sys2Proof/Machine/FrameModel.lean ====
section
/-! DEFINITION. The functional level of the Frame Model: frames, the discriminator, SERIALIZE, DESERIALIZE, the composed
functions TXFRAME and RXFRAME (43_frame_model.md, 44_pipeline.md R160). -/

namespace Sys2Proof.Machine

/-- A frame: a kind and its argument bytes (43_frame_model.md R125). Two are equal when both parts are. -/
structure Frame where
  kind : Kind
  args : List Byte
deriving DecidableEq, Repr

/-- A pair is a frame of the configuration when it has exactly `ARGLEN(k)` argument bytes (43_frame_model.md R125). -/
def Frame.wf (c : Config) (f : Frame) : Bool := f.args.length == c.arglenOf f.kind

/-- The discriminator's table: a byte to (`known`, `arglen`) (45_byte_serial.md R175). -/
def discLookup (c : Config) (fid : Byte) : Option (Kind × Nat) := (Kind.ofFid fid).map (fun k => (k, c.arglenOf k))

/-- The verdict of DISC on (Frame ID byte, number of argument bytes): first the Frame ID, then too few bytes, then too
many (45_byte_serial.md R181, 43_frame_model.md R129). -/
def disc (c : Config) (fid : Byte) (m : Nat) : Except FrameError Kind :=
  match discLookup c fid with
  | none => .error .unknownFrameId
  | some (k, a) =>
    if m < a then .error .truncatedPayload
    else if a < m then .error .trailingBytes
    else .ok k

/-- `SERIALIZE(k, args)` (43_frame_model.md R127). -/
def serialize (f : Frame) : List Byte := f.kind.fid :: f.args

/-- `DESERIALIZE(p)` under a trailing-bytes policy (43_frame_model.md R128, R142): REJECT gives `TrailingBytes`, IGNORE
keeps the first `ARGLEN` argument bytes. -/
def deserializeUnder (policy : TrailingPolicy) (c : Config) : List Byte → Except FrameError Frame
  | [] => .error .truncatedPayload
  | fid :: args =>
    match Kind.ofFid fid with
    | none => .error .unknownFrameId
    | some k =>
      if args.length < c.arglenOf k then .error .truncatedPayload
      else if c.arglenOf k < args.length then
        match policy with
        | .reject => .error .trailingBytes
        | .ignore => .ok ⟨k, args.take (c.arglenOf k)⟩
      else .ok ⟨k, args⟩

/-- `DESERIALIZE(p)` of this hardware: policy REJECT (43_frame_model.md R128, R142). -/
def deserialize (c : Config) (p : List Byte) : Except FrameError Frame :=
  deserializeUnder Config.trailingPolicy c p

/-- `TXFRAME(k, args) = ENCODE(SERIALIZE(k, args))` (44_pipeline.md R160). -/
def txFrame (f : Frame) : List Byte := wireEncode (serialize f)

/-- `RXFRAME(w)`: DECODE, then DESERIALIZE of what it gave (44_pipeline.md R160). -/
def rxFrame (c : Config) (w : List Byte) : Except FrameError Frame :=
  match wireDecode w with
  | .ok p => deserialize c p
  | .error e => .error e

end Sys2Proof.Machine
end

