-- ==== Sys2Proof/Machine/Flags.lean ====
section
/-! DEFINITION. `STATUS`, the only condition state of the block: its fields and its values (10_state.md R13,
30_encoding.md R72, R73). -/

namespace Sys2Proof.Machine

/-- `STATUS.VLD`, bit 7. -/
def State.vld (s : State) : Bool := s.status.getLsbD 7

/-- `STATUS.CODE`, bits 3:0. -/
def State.code (s : State) : BitVec 4 := s.status.extractLsb' 0 4

/-- `CODE` of a success (30_encoding.md R72). -/
def codeOK : BitVec 4 := 0

/-- `code(E)` (30_encoding.md R72). -/
def FrameError.code : FrameError → BitVec 4
  | .tooShort => 1
  | .badDelimiter => 2
  | .badChecksum => 3
  | .unknownFrameId => 4
  | .truncatedPayload => 5
  | .trailingBytes => 6

/-- The error a `CODE` value names, none for `OK` and for the values never produced (30_encoding.md R72, R73). -/
def FrameError.ofCode (code : BitVec 4) : Option FrameError :=
  match code.toNat with
  | 1 => some .tooShort
  | 2 => some .badDelimiter
  | 3 => some .badChecksum
  | 4 => some .unknownFrameId
  | 5 => some .truncatedPayload
  | 6 => some .trailingBytes
  | _ => none

/-- `STATUS` after a completion: `VLD` 1, bits 6:4 zero, `CODE` (10_state.md R13). -/
def statusWord (code : BitVec 4) : Byte := (0b1#1 ++ 0b000#3 ++ code : BitVec 8)

end Sys2Proof.Machine
end

