-- ==== Sys2Proof/Machine/Ops.lean ====
section
/-! DEFINITION. The named operations: reading and writing a buffer, writing the registers, completing a command with a
result or an error, and reset. -/

namespace Sys2Proof.Machine

/-! ### Buffers -/

/-- The byte an index holds, none when it holds no value. -/
def Memory.read : Memory → Nat → Option Byte
  | [], _ => none
  | (a, b) :: m, i => if a = i then some b else Memory.read m i

/-- Stores one byte, keeping the indexes strictly rising. -/
def Memory.write : Memory → Nat → Byte → Memory
  | [], i, v => [(i, v)]
  | (a, b) :: m, i, v =>
    if i < a then (i, v) :: (a, b) :: m
    else if i = a then (i, v) :: m
    else (a, b) :: Memory.write m i v

/-- Stores a byte sequence at rising indexes. -/
def Memory.writeList (m : Memory) (i : Nat) : List Byte → Memory
  | [] => m
  | b :: bs => Memory.writeList (Memory.write m i b) (i + 1) bs

/-- The `n` bytes from index `i`, none when one of them holds no value. -/
def Memory.readList (m : Memory) (i : Nat) : Nat → Option (List Byte)
  | 0 => some []
  | n + 1 =>
    match Memory.read m i, Memory.readList m (i + 1) n with
    | some b, some bs => some (b :: bs)
    | _, _ => none

/-- The canonical form: indexes strictly rising. An unlisted index holds no value, so no entry equals it. -/
def Memory.wf : Memory → Bool
  | [] => true
  | [_] => true
  | (a, _) :: (b, v) :: m => decide (a < b) && Memory.wf ((b, v) :: m)

/-- Every index of the buffer is below `n`. -/
def Memory.below (m : Memory) (n : Nat) : Bool := m.all (fun cell => decide (cell.1 < n))

/-! ### Register writes by the host -/

/-- `KIN <- v[7:0]` (10_state.md R14). -/
def State.setKin (v : PortWord) (s : State) : State := { s with kin := v.setWidth 8 }

/-- `ILEN <- v[LW-1:0]` (10_state.md R16). -/
def State.setIlen (v : PortWord) (s : State) : State := { s with ilen := (v.setWidth s.cfg.lw).setWidth 16 }

/-- `IBUF[i] <- v[7:0]` (20_memory.md R42, R44). -/
def State.setIbuf (i : Nat) (v : PortWord) (s : State) : State :=
  { s with ibuf := Memory.write s.ibuf i (v.setWidth 8) }

/-- What the pseudo-line `LOAD` does: the bytes into `IBUF` from index 0, their number into `ILEN`
(30_encoding.md R75). -/
def State.load (bytes : List Byte) (s : State) : State :=
  State.setIlen (BitVec.ofNat 16 bytes.length) { s with ibuf := Memory.writeList s.ibuf 0 bytes }

/-! ### Completion -/

/-- The hidden registers as a command's loop leaves them: `ACC` the fold of the bytes fed, `IDX` the bytes stepped over
(10_state.md R22, R23, 45_byte_serial.md R178; log 6). -/
def State.ran (acc : Byte) (idx : Nat) (s : State) : State := { s with acc := acc, idx := idx }

/-- `complete(code, kout, chk, out)`: the one step in which a command writes all its outputs (00_scope.md R9); the loop is
over, so `PH <- IDLE` (10_state.md R22). `OBUF` cells at or above `len(out)` keep what they hold (log 13). -/
def State.complete (code : BitVec 4) (kout chk : Byte) (out : List Byte) (s : State) : State :=
  { s with
    status := statusWord code
    kout := kout
    chk := chk
    olen := BitVec.ofNat 16 out.length
    obuf := Memory.writeList s.obuf 0 out
    ph := .idle }

/-- `raise E with chk c`, the block's one exception entry: `complete(code(E), 0xFF, c, [])` (00_scope.md R9,
60_exceptions.md R200, R211). It saves nothing and goes nowhere, and there is no return from it: the block takes the next
access like after a success (60_exceptions.md R211, R212). -/
def State.raise (e : FrameError) (chk : Byte) (s : State) : State := s.complete e.code 0xFF chk []

/-! ### Reset -/

/-- The reset input (70_reset_and_hazards.md R230, R231): every register to its reset value, no byte of `IBUF` written,
the stored bytes of `OBUF` not cleared. The host's own list of events and the values it has received stay the host's. -/
def State.applyReset (s : State) : State :=
  { State.resetWith s.cfg with obuf := s.obuf, port := s.port, replies := s.replies }

/-! ### What a host read of OBUF gives -/

/-- The stored byte of `OBUF[j]`; a cell no command has written holds a free value (log 7). -/
def State.obufCell (s : State) (j : Nat) : Byte := (Memory.read s.obuf j).getD (Config.obufCell j)

/-- `OBUF[j]` as the host reads it: 0x00 at or above `OLEN` (10_state.md R21). -/
def State.obufRead (s : State) (j : Nat) : Byte := if j < s.olen.toNat then s.obufCell j else 0x00

/-- The output sequence `OBUF[0..OLEN-1]`, what `DUMP` yields (30_encoding.md R75). -/
def State.output (s : State) : List Byte := (List.range s.olen.toNat).map s.obufRead

/-- Two states show the host the same outputs: `STATUS`, `KOUT`, `OLEN`, `CHK` and every read of `OBUF`
(10_state.md R11, 45_byte_serial.md R183). -/
def State.sameOutputs (s t : State) : Prop :=
  s.status = t.status ∧ s.kout = t.kout ∧ s.olen = t.olen ∧ s.chk = t.chk ∧ ∀ j, s.obufRead j = t.obufRead j

/-- Two states have the same inputs and everything else a command must leave alone: parameters, `KIN`, `ILEN`, `IBUF`,
and the host's side of the port (10_state.md R11, 60_exceptions.md R211). -/
def State.sameInputs (s t : State) : Prop :=
  s.cfg = t.cfg ∧ s.kin = t.kin ∧ s.ilen = t.ilen ∧ s.ibuf = t.ibuf ∧ s.port = t.port ∧ s.replies = t.replies

end Sys2Proof.Machine
end

