-- ==== Sys2Proof/Machine/Operands.lean ====
section
/-! DEFINITION. The operands of a command: the input sequence `IBUF[0..ILEN-1]` (00_scope.md R8, 10_state.md R11, R19). -/

namespace Sys2Proof.Machine

/-- `n = ILEN`. -/
def State.n (s : State) : Nat := s.ilen.toNat

/-- `in = IBUF[0..ILEN-1]`; none when it covers a byte that holds no value (20_memory.md R54). -/
def State.input (s : State) : Option (List Byte) := Memory.readList s.ibuf 0 s.n

/-- Runs a command over its input; a command whose input is not all written is refused (20_memory.md R54,
70_reset_and_hazards.md R237). -/
def withInput (s : State) (f : List Byte → State) : Host.Outcome State Fault Refusal :=
  match s.input with
  | some bytes => .next (f bytes)
  | none => .refused .inputNotWritten

end Sys2Proof.Machine
end

