-- ==== Sys2Proof/Machine/Payload.lean ====
section
/-! DEFINITION. The PAYLOAD rows of the opcode table as instructions: a payload standing before the discriminator
(43_frame_model.md R128, R130 to R138; log 4). DES dispatches its input so, and RX what its decode stage returned. -/

namespace Sys2Proof.Machine

/-- The discriminator recognises a payload or reports the first failing check (43_frame_model.md R128, R129, R143). `CHK`
gets `ACC`: 0x00 in DES, the expected checksum in RX (10_state.md R18, 45_byte_serial.md R181; log 12). -/
def State.discriminate (p : List Byte) (s : State) : State :=
  match p with
  | [] => s.raise .truncatedPayload s.acc
  | fid :: args =>
    match disc s.cfg fid args.length with
    | .error e => s.raise e s.acc
    | .ok _ => s.complete codeOK fid s.acc args

/-- Ping (43_frame_model.md R130). -/
def execPing (args : List Byte) (s : State) : Host.Outcome State Fault Refusal :=
  .next (s.discriminate (Kind.ping.fid :: args))

/-- AssignID (43_frame_model.md R131). -/
def execAssignID (args : List Byte) (s : State) : Host.Outcome State Fault Refusal :=
  .next (s.discriminate (Kind.assignID.fid :: args))

/-- RequestData (43_frame_model.md R132). -/
def execRequestData (args : List Byte) (s : State) : Host.Outcome State Fault Refusal :=
  .next (s.discriminate (Kind.requestData.fid :: args))

/-- SetStandby (43_frame_model.md R133). -/
def execSetStandby (args : List Byte) (s : State) : Host.Outcome State Fault Refusal :=
  .next (s.discriminate (Kind.setStandby.fid :: args))

/-- SetDischarge (43_frame_model.md R134). -/
def execSetDischarge (args : List Byte) (s : State) : Host.Outcome State Fault Refusal :=
  .next (s.discriminate (Kind.setDischarge.fid :: args))

/-- SetCharge (43_frame_model.md R135). -/
def execSetCharge (args : List Byte) (s : State) : Host.Outcome State Fault Refusal :=
  .next (s.discriminate (Kind.setCharge.fid :: args))

/-- AnnounceCompletion (43_frame_model.md R136). -/
def execAnnounceCompletion (args : List Byte) (s : State) : Host.Outcome State Fault Refusal :=
  .next (s.discriminate (Kind.announceCompletion.fid :: args))

/-- RESERVED_03: `UnknownFrameId` whatever follows (43_frame_model.md R137). -/
def execReserved03 (rest : List Byte) (s : State) : Host.Outcome State Fault Refusal :=
  .next (s.discriminate (0x03 :: rest))

/-- UNASSIGNED_08, Frame IDs 0x08 to 0x0F (43_frame_model.md R138). -/
def execUnassigned08 (x : BitVec 3) (rest : List Byte) (s : State) : Host.Outcome State Fault Refusal :=
  .next (s.discriminate ((0b00001#5 ++ x : BitVec 8) :: rest))

/-- UNASSIGNED_10, Frame IDs 0x10 to 0x1F (43_frame_model.md R138). -/
def execUnassigned10 (x : BitVec 4) (rest : List Byte) (s : State) : Host.Outcome State Fault Refusal :=
  .next (s.discriminate ((0b0001#4 ++ x : BitVec 8) :: rest))

/-- UNASSIGNED_20, Frame IDs 0x20 to 0x3F (43_frame_model.md R138). -/
def execUnassigned20 (x : BitVec 5) (rest : List Byte) (s : State) : Host.Outcome State Fault Refusal :=
  .next (s.discriminate ((0b001#3 ++ x : BitVec 8) :: rest))

/-- UNASSIGNED_40, Frame IDs 0x40 to 0x7F (43_frame_model.md R138). -/
def execUnassigned40 (x : BitVec 6) (rest : List Byte) (s : State) : Host.Outcome State Fault Refusal :=
  .next (s.discriminate ((0b01#2 ++ x : BitVec 8) :: rest))

/-- UNASSIGNED_80, Frame IDs 0x80 to 0xFF (43_frame_model.md R138). -/
def execUnassigned80 (x : BitVec 7) (rest : List Byte) (s : State) : Host.Outcome State Fault Refusal :=
  .next (s.discriminate ((0b1#1 ++ x : BitVec 8) :: rest))

end Sys2Proof.Machine
end

