-- ==== Sys2Proof/Machine/Wire.lean ====
section
/-! DEFINITION. The WIRE row of the opcode table as an instruction: a wire frame standing before the validator
(30_encoding.md R61, 42_decode.md R112; log 4). -/

namespace Sys2Proof.Machine

/-- How many input bytes DEC and RX have stepped over when the validator gives its verdict: none before the delimiter is
accepted, all but the last after (45_byte_serial.md R180; log 6). -/
def validatedBytes (w : List Byte) : Nat :=
  if w.length < 2 ∨ w.headD 0 ≠ delimiter then 0 else w.length - 1

/-- Validate and unframe wire bytes: the payload out, or the validator's error (42_decode.md R112). -/
def State.unframe (w : List Byte) (s : State) : State :=
  match validate w with
  | .error (e, c) => (s.ran c (validatedBytes w)).raise e c
  | .ok (p, c) => (s.ran c (validatedBytes w)).complete codeOK 0xFF c p

/-- DELIM, a frame that begins with the delimiter (30_encoding.md R61, 42_decode.md R112). -/
def execDelim (payload : List Byte) (checksum : Byte) (s : State) : Host.Outcome State Fault Refusal :=
  .next (s.unframe (delimiter :: (payload ++ [checksum])))

end Sys2Proof.Machine
end

