-- ==== Sys2Proof/Machine/Command.lean ====
section
/-! DEFINITION. The CMD rows of the opcode table: the eight commands, each one atomic step (30_encoding.md R71). -/

namespace Sys2Proof.Machine

/-- NOP: no state change (44_pipeline.md R161). -/
def execNop (s : State) : Host.Outcome State Fault Refusal := .next s

/-- CSUM: fold the input (40_checksum.md R93). -/
def execCsum (s : State) : Host.Outcome State Fault Refusal :=
  withInput s fun bytes =>
    let c := xorfold bytes
    (s.ran c bytes.length).complete codeOK 0xFF c []

/-- ENC: frame the input (41_encode.md R101). -/
def execEnc (s : State) : Host.Outcome State Fault Refusal :=
  withInput s fun bytes =>
    let c := checksum bytes
    (s.ran c bytes.length).complete codeOK 0xFF c (wireEncode bytes)

/-- DEC: validate and unframe the input (42_decode.md R112). -/
def execDec (s : State) : Host.Outcome State Fault Refusal :=
  withInput s fun bytes => s.unframe bytes

/-- SER: a payload from `KIN` and the argument bytes (43_frame_model.md R139). -/
def execSer (s : State) : Host.Outcome State Fault Refusal :=
  withInput s fun bytes =>
    match disc s.cfg s.kin bytes.length with
    | .error e => (s.ran 0x00 0).raise e 0x00
    | .ok _ => (s.ran 0x00 bytes.length).complete codeOK 0xFF 0x00 (s.kin :: bytes)

/-- How many input bytes DES has stepped over: none when it fails, which it learns before any byte is copied, all of them
when it succeeds (45_byte_serial.md R181; log 6). -/
def discriminatedBytes (c : Config) (p : List Byte) : Nat :=
  match deserialize c p with
  | .ok _ => p.length
  | .error _ => 0

/-- DES: split a payload into kind and argument bytes (43_frame_model.md R140). -/
def execDes (s : State) : Host.Outcome State Fault Refusal :=
  withInput s fun bytes => (s.ran 0x00 (discriminatedBytes s.cfg bytes)).discriminate bytes

/-- TX: build the payload of a frame and frame it (44_pipeline.md R162). -/
def execTx (s : State) : Host.Outcome State Fault Refusal :=
  withInput s fun bytes =>
    match disc s.cfg s.kin bytes.length with
    | .error e => (s.ran 0x00 0).raise e 0x00
    | .ok _ =>
      let p := s.kin :: bytes
      let c := checksum p
      (s.ran c bytes.length).complete codeOK 0xFF c (wireEncode p)

/-- RX: validate and unframe a wire frame, then split its payload (44_pipeline.md R163). -/
def execRx (s : State) : Host.Outcome State Fault Refusal :=
  withInput s fun bytes =>
    match validate bytes with
    | .error (e, c) => (s.ran c (validatedBytes bytes)).raise e c
    | .ok (p, c) => (s.ran c (validatedBytes bytes)).discriminate p

end Sys2Proof.Machine
end

