-- ==== Sys2Proof/Machine/Completion.lean ====
section
/-! DEFINITION. The STATUS rows of the opcode table as instructions: the completion step that leaves that `STATUS`
(00_scope.md R9, 30_encoding.md R72, 60_exceptions.md R201 to R207). Where the rule records the expected checksum in
`CHK`, it comes from `ACC`, which holds what XACC has folded in the command so far and is 0x00 where no checksum is
computed (45_byte_serial.md R178; log 12). -/

namespace Sys2Proof.Machine

/-- ST_OK: a success with no output sequence and no kind, as CSUM ends (30_encoding.md R72, 40_checksum.md R93). -/
def execStOK (s : State) : Host.Outcome State Fault Refusal := .next (s.complete codeOK 0xFF s.acc [])

/-- ST_TooShort (60_exceptions.md R201). -/
def execStTooShort (s : State) : Host.Outcome State Fault Refusal := .next (s.raise .tooShort 0x00)

/-- ST_BadDelimiter (60_exceptions.md R202). -/
def execStBadDelimiter (s : State) : Host.Outcome State Fault Refusal := .next (s.raise .badDelimiter 0x00)

/-- ST_BadChecksum (60_exceptions.md R203). -/
def execStBadChecksum (s : State) : Host.Outcome State Fault Refusal := .next (s.raise .badChecksum s.acc)

/-- ST_UnknownFrameId (60_exceptions.md R204). -/
def execStUnknownFrameId (s : State) : Host.Outcome State Fault Refusal := .next (s.raise .unknownFrameId s.acc)

/-- ST_TruncatedPayload (60_exceptions.md R205). -/
def execStTruncatedPayload (s : State) : Host.Outcome State Fault Refusal := .next (s.raise .truncatedPayload s.acc)

/-- ST_TrailingBytes (60_exceptions.md R206). -/
def execStTrailingBytes (s : State) : Host.Outcome State Fault Refusal := .next (s.raise .trailingBytes s.acc)

end Sys2Proof.Machine
end

