-- ==== Sys2Proof/Machine/Dispatch.lean ====
section
/-! DEFINITION. One arm per row of spec/opcode_table.json. -/

namespace Sys2Proof.Machine

def exec (i : Instr) (s : State) : Host.Outcome State Fault Refusal :=
  match i with
  -- format CMD
  | .nop => Sys2Proof.Machine.execNop s
  | .csum => Sys2Proof.Machine.execCsum s
  | .enc => Sys2Proof.Machine.execEnc s
  | .dec => Sys2Proof.Machine.execDec s
  | .ser => Sys2Proof.Machine.execSer s
  | .des => Sys2Proof.Machine.execDes s
  | .tx => Sys2Proof.Machine.execTx s
  | .rx => Sys2Proof.Machine.execRx s
  -- format PAYLOAD
  | .ping args => Sys2Proof.Machine.execPing args s
  | .assignID args => Sys2Proof.Machine.execAssignID args s
  | .requestData args => Sys2Proof.Machine.execRequestData args s
  | .setStandby args => Sys2Proof.Machine.execSetStandby args s
  | .setDischarge args => Sys2Proof.Machine.execSetDischarge args s
  | .setCharge args => Sys2Proof.Machine.execSetCharge args s
  | .announceCompletion args => Sys2Proof.Machine.execAnnounceCompletion args s
  | .reserved03 rest => Sys2Proof.Machine.execReserved03 rest s
  | .unassigned08 x rest => Sys2Proof.Machine.execUnassigned08 x rest s
  | .unassigned10 x rest => Sys2Proof.Machine.execUnassigned10 x rest s
  | .unassigned20 x rest => Sys2Proof.Machine.execUnassigned20 x rest s
  | .unassigned40 x rest => Sys2Proof.Machine.execUnassigned40 x rest s
  | .unassigned80 x rest => Sys2Proof.Machine.execUnassigned80 x rest s
  -- format WIRE
  | .delim payload checksum => Sys2Proof.Machine.execDelim payload checksum s
  -- format STATUS
  | .stOK => Sys2Proof.Machine.execStOK s
  | .stTooShort => Sys2Proof.Machine.execStTooShort s
  | .stBadDelimiter => Sys2Proof.Machine.execStBadDelimiter s
  | .stBadChecksum => Sys2Proof.Machine.execStBadChecksum s
  | .stUnknownFrameId => Sys2Proof.Machine.execStUnknownFrameId s
  | .stTruncatedPayload => Sys2Proof.Machine.execStTruncatedPayload s
  | .stTrailingBytes => Sys2Proof.Machine.execStTrailingBytes s

end Sys2Proof.Machine
end

