-- ==== Sys2Proof/Machine/Port.lean ====
section
/-! DEFINITION. The host port: the address map, HostRead, HostWrite, and what each event of the outside does
(20_memory.md R40 to R44). -/

namespace Sys2Proof.Machine

/-- What an address of the port names (20_memory.md R42). -/
inductive Location where
  | cmd | status | kin | kout | ilen | olen | chk | reserved
  | ibuf (i : Nat)
  | obuf (j : Nat)
  | unmapped
deriving DecidableEq, Repr

/-- `AW = LW + 3` (20_memory.md R40). -/
def addressBits (c : Config) : Nat := c.lw + 3

/-- `IBUF_BASE = 2^(LW+1)` (20_memory.md R42). -/
def ibufBase (c : Config) : Nat := 2 ^ (c.lw + 1)

/-- `OBUF_BASE = 2^(LW+2)` (20_memory.md R42). -/
def obufBase (c : Config) : Nat := 2 ^ (c.lw + 2)

/-- The address map (20_memory.md R42). -/
def locate (c : Config) (addr : Nat) : Location :=
  if addr = 0 then .cmd
  else if addr = 1 then .status
  else if addr = 2 then .kin
  else if addr = 3 then .kout
  else if addr = 4 then .ilen
  else if addr = 5 then .olen
  else if addr = 6 then .chk
  else if addr = 7 then .reserved
  else if addr < ibufBase c then .unmapped
  else if addr < ibufBase c + c.nmax then .ibuf (addr - ibufBase c)
  else if addr < obufBase c then .unmapped
  else if addr < obufBase c + c.nmax + 3 then .obuf (addr - obufBase c)
  else .unmapped

/-- `HostRead(addr)`: narrow locations zero-extended; write-only, reserved and unmapped ones give 0 (20_memory.md R42 to
R44). -/
def State.hostRead (s : State) (addr : Nat) : PortWord :=
  match locate s.cfg addr with
  | .status => s.status.setWidth 16
  | .kin => s.kin.setWidth 16
  | .kout => s.kout.setWidth 16
  | .ilen => s.ilen
  | .olen => s.olen
  | .chk => s.chk.setWidth 16
  | .obuf j => (s.obufRead j).setWidth 16
  | .cmd | .reserved | .ibuf _ | .unmapped => 0

/-- `HostWrite(addr, v)`: a write to `CMD` runs the command `v[2:0]`, `KIN`, `ILEN` and `IBUF` store their low bits, every
other write is ignored (20_memory.md R42 to R44). -/
def State.hostWrite (addr : Nat) (v : PortWord) (s : State) : Host.Outcome State Fault Refusal :=
  match locate s.cfg addr with
  | .cmd => exec (decodeCmd v) s
  | .kin => .next (s.setKin v)
  | .ilen => .next (s.setIlen v)
  | .ibuf i => .next (s.setIbuf i v)
  | .status | .kout | .olen | .chk | .reserved | .obuf _ | .unmapped => .next s

/-- An access as the triple `(RW, ADDR, DATA)` of format HOSTACC: `DATA` comes from the host on a write and from the block
on a read (30_encoding.md R74). The reset input is no access. -/
def HostEvent.hostacc (s : State) : HostEvent → Option (BitVec 1 × Nat × PortWord)
  | .read addr => some (0, addr, s.hostRead addr)
  | .write addr v => some (1, addr, v)
  | .reset => none

/-- One event of the outside. A read returns a value and changes nothing of the block (20_memory.md R41); its value goes to
the host. -/
def State.hostEvent (e : HostEvent) (s : State) : Host.Outcome State Fault Refusal :=
  match e with
  | .read addr =>
    if addr < 2 ^ addressBits s.cfg then .next { s with replies := s.replies ++ [s.hostRead addr] }
    else .fault .notAPortAddress
  | .write addr v =>
    if addr < 2 ^ addressBits s.cfg then s.hostWrite addr v
    else .fault .notAPortAddress
  | .reset => .next s.applyReset

/-- The next event, in the order the host issues them (20_memory.md R49); with none left the block is idle and keeps its
state (60_exceptions.md R221, 70_reset_and_hazards.md R242; log 2). -/
def State.takeEvent (s : State) : Host.Outcome State Fault Refusal :=
  match s.port with
  | [] => .next s
  | e :: rest => State.hostEvent e { s with port := rest }

/-- The host's next event is a write of this command code to `CMD`. -/
def State.command (v : PortWord) (s : State) : State := { s with port := .write 0 v :: s.port }

/-- Puts an instruction where the block takes its next one from (log 5). A command: the host's next access writes its code
to `CMD`. A payload: it stands in `IBUF` and the next access runs DES. A wire frame: it stands in `IBUF` and the next
access runs DEC. A status code: an input that makes the next command complete with it. -/
def State.place (f : Format) (w : Nat) (bytes : List Byte) (s : State) : State :=
  match f with
  | .cmd => s.command (BitVec.ofNat 16 w)
  | .payload => (s.load bytes).command 5
  | .wire => (s.load bytes).command 3
  | .status =>
    match w % 8 with
    | 0 => (s.load []).command 1
    | 1 => (s.load []).command 3
    | 2 => (s.load [0x00, 0x00]).command 3
    | 3 => (s.load [0xB3, 0x00]).command 3
    | 4 => (s.load [0x03]).command 5
    | 5 => (s.load []).command 5
    | _ => (s.load [0x00, 0x00]).command 5

end Sys2Proof.Machine
end

