-- ==== Sys2Proof/Machine/Step.lean ====
section
/-! DEFINITION. One step: the host's next event. -/

namespace Sys2Proof.Machine

def step (s : State) : Host.Outcome State Fault Refusal := s.takeEvent

/-- `s` with an instruction of spec/opcode_table.json as the next one `step` runs (log 5). -/
def State.withFetchWord (s : State) (nbits w : Nat) : State :=
  s.place (tableFormat nbits w) w (tableBytes s.cfg nbits w)

end Sys2Proof.Machine
end

