-- ==== Sys2Proof/Machine/Datapath.lean ====
section
/-! DEFINITION. The byte-serial reference datapath: the units DELIM, ESC, XACC, VALID, DISC and the sequencer, one input
byte a micro-step, over the hidden registers `ACC`, `IDX`, `PH` (45_byte_serial.md R175 to R181). It refines the atomic
commands of Command.lean, which win on any difference (R183); the host sees none of it. A micro-step handles the byte at
`IDX` and then advances `IDX` by 1 (10_state.md R23; log 15). -/

namespace Sys2Proof.Machine

/-! ### The units -/

/-- DELIM toward the wire (45_byte_serial.md R176). -/
def delimEmit : Byte := delimiter

/-- DELIM from the wire (45_byte_serial.md R176). -/
def delimCheck (b : Byte) : Bool := b == delimiter

/-- ESC toward the wire: the identity (45_byte_serial.md R177). -/
def escOut (b : Byte) : Byte := b

/-- ESC from the wire: the identity (45_byte_serial.md R177). -/
def escIn (b : Byte) : Byte := b

/-- XACC: `ACC <- ACC ^ b` (45_byte_serial.md R178). -/
def State.feed (b : Byte) (s : State) : State := { s with acc := s.acc ^^^ b }

/-- The byte the storage cell `IBUF[i]` gives (20_memory.md R54; log 8). -/
def State.ibufByte (s : State) (i : Nat) : Byte := (Memory.read s.ibuf i).getD (Config.ibufCell i)

/-- The storage cell `OBUF[j]` takes a byte. -/
def State.putObuf (j : Nat) (b : Byte) (s : State) : State := { s with obuf := Memory.write s.obuf j b }

/-! ### The sequencer -/

/-- Every loop starts with `ACC <- 0x00; IDX <- 0; PH <- RUN` (45_byte_serial.md section 2). -/
def State.start (s : State) : State := { s with acc := 0x00, idx := 0, ph := .run }

/-- `IDX` advances by 1 (10_state.md R23). -/
def State.advance (s : State) : State := { s with idx := s.idx + 1 }

/-- `n` micro-steps. -/
def State.loop : Nat → (State → State) → State → State
  | 0, _, s => s
  | n + 1, micro, s => State.loop n micro (micro s)

/-- The end of a loop that succeeded: the output registers, `CHK` from what XACC holds or 0x00, `PH <- IDLE`
(45_byte_serial.md R179 to R181). -/
def State.finish (kout chk : Byte) (olen : Nat) (s : State) : State :=
  { s with status := 0x80, kout := kout, chk := chk, olen := BitVec.ofNat 16 olen, ph := .idle }

/-- Micro-step of CSUM: fold the input byte. -/
def microFold (s : State) : State := (s.feed (s.ibufByte s.idx)).advance

/-- Micro-step of ENC (`shift` 1) and TX (`shift` 2): the input byte, through ESC, into `OBUF[IDX + shift]` and `ACC`. -/
def microEmit (shift : Nat) (s : State) : State :=
  let b := escOut (s.ibufByte s.idx)
  ((s.putObuf (s.idx + shift) b).feed b).advance

/-- Micro-step of DEC (`shift` 1) and RX (`shift` 2): the input byte, through ESC, into `ACC`, and into `OBUF[IDX - shift]`
when `IDX` has reached `shift` (RX folds its Frame ID byte without copying it). -/
def microTake (shift : Nat) (s : State) : State :=
  let b := escIn (s.ibufByte s.idx)
  ((if shift ≤ s.idx then s.putObuf (s.idx - shift) b else s).feed b).advance

/-- Micro-step of SER: copy the input byte to `OBUF[IDX + 1]`. -/
def microCopyUp (s : State) : State := (s.putObuf (s.idx + 1) (s.ibufByte s.idx)).advance

/-- Micro-step of DES: copy the input byte to `OBUF[IDX - 1]`. -/
def microCopyDown (s : State) : State := (s.putObuf (s.idx - 1) (s.ibufByte s.idx)).advance

/-! ### The loops -/

/-- The folding part of `CSUM_DP`: `k` input bytes (45_byte_serial.md R179). -/
def dpFoldLoop (k : Nat) (s : State) : State := State.loop k microFold s.start

/-- `CSUM_DP` (45_byte_serial.md R179). -/
def dpCsum (s : State) : State :=
  let t := dpFoldLoop s.n s
  t.finish 0xFF t.acc 0

/-- The emitting part of `ENC_DP`: the delimiter, then `n` input bytes (45_byte_serial.md R179). -/
def dpEncLoop (n : Nat) (s : State) : State :=
  State.loop n (microEmit 1) ((s.start.putObuf 0 delimEmit).feed delimEmit)

/-- `ENC_DP` (45_byte_serial.md R179). -/
def dpEnc (s : State) : State :=
  let t := dpEncLoop s.n s
  (t.putObuf (s.n + 1) t.acc).finish 0xFF t.acc (s.n + 2)

/-- The folding part of `DEC_DP` (`shift` 1) and `RX_DP` (`shift` 2), after the delimiter is accepted: `k` micro-steps from
`IDX = 1` (45_byte_serial.md R180, R181). -/
def dpTakeLoop (shift k : Nat) (s : State) : State :=
  State.loop k (microTake shift) ((s.start.feed (s.ibufByte 0)).advance)

/-- `DEC_DP` up to and including VALID's three tests: the state the loop leaves, or the error with the checksum to report
(45_byte_serial.md R180). -/
def dpValid (shift : Nat) (s : State) : Except State State :=
  if s.n < 2 then .error (s.start.raise .tooShort 0x00)
  else if delimCheck (s.ibufByte 0) = false then .error (s.start.raise .badDelimiter 0x00)
  else
    let t := dpTakeLoop shift (s.n - 2) s
    if t.acc ≠ s.ibufByte (s.n - 1) then .error (t.raise .badChecksum t.acc) else .ok t

/-- `DEC_DP` (45_byte_serial.md R180). -/
def dpDec (s : State) : State :=
  match dpValid 1 s with
  | .error t => t
  | .ok t => t.finish 0xFF t.acc (s.n - 2)

/-- The copying part of `SER_DP`, after DISC has passed: the Frame ID, then `k` input bytes (45_byte_serial.md R181). -/
def dpSerLoop (k : Nat) (s : State) : State := State.loop k microCopyUp (s.start.putObuf 0 s.kin)

/-- `SER_DP` (45_byte_serial.md R181). -/
def dpSer (s : State) : State :=
  match disc s.cfg s.kin s.n with
  | .error e => s.start.raise e 0x00
  | .ok _ => (dpSerLoop s.n s).finish 0xFF 0x00 (s.n + 1)

/-- The copying part of `DES_DP`, after DISC has passed: `k` input bytes from `IDX = 1` (45_byte_serial.md R181). -/
def dpDesLoop (k : Nat) (s : State) : State := State.loop k microCopyDown s.start.advance

/-- `DES_DP` (45_byte_serial.md R181). -/
def dpDes (s : State) : State :=
  if s.n < 1 then s.start.raise .truncatedPayload 0x00
  else
    match disc s.cfg (s.ibufByte 0) (s.n - 1) with
    | .error e => s.start.raise e 0x00
    | .ok _ => (dpDesLoop (s.n - 1) s).finish (s.ibufByte 0) 0x00 (s.n - 1)

/-- The emitting part of `TX_DP`, after DISC has passed: the delimiter, the Frame ID, then `k` input bytes
(45_byte_serial.md R181). -/
def dpTxLoop (k : Nat) (s : State) : State :=
  let d := (s.start.putObuf 0 delimEmit).feed delimEmit
  State.loop k (microEmit 2) ((d.putObuf 1 (escOut s.kin)).feed (escOut s.kin))

/-- `TX_DP`: `ENC_DP` on `[KIN] ++ in` (45_byte_serial.md R181). -/
def dpTx (s : State) : State :=
  match disc s.cfg s.kin s.n with
  | .error e => s.start.raise e 0x00
  | .ok _ =>
    let t := dpTxLoop s.n s
    (t.putObuf (s.n + 2) t.acc).finish 0xFF t.acc (s.n + 3)

/-- `RX_DP` (45_byte_serial.md R181). -/
def dpRx (s : State) : State :=
  match dpValid 2 s with
  | .error t => t
  | .ok t =>
    if s.n - 2 < 1 then t.raise .truncatedPayload t.acc
    else
      match disc s.cfg (s.ibufByte 1) (s.n - 3) with
      | .error e => t.raise e t.acc
      | .ok _ => t.finish (s.ibufByte 1) t.acc (s.n - 3)

/-- The loop of a command; NOP has none (45_byte_serial.md R175), and a row of another format is no command. -/
def dpRun (i : Instr) (s : State) : State :=
  match i with
  | .csum => dpCsum s
  | .enc => dpEnc s
  | .dec => dpDec s
  | .ser => dpSer s
  | .des => dpDes s
  | .tx => dpTx s
  | .rx => dpRx s
  | .nop => s
  | .ping _ | .assignID _ | .requestData _ | .setStandby _ | .setDischarge _ | .setCharge _ | .announceCompletion _
  | .reserved03 _ | .unassigned08 _ _ | .unassigned10 _ _ | .unassigned20 _ _ | .unassigned40 _ _
  | .unassigned80 _ _ | .delim _ _ | .stOK | .stTooShort | .stBadDelimiter | .stBadChecksum | .stUnknownFrameId
  | .stTruncatedPayload | .stTrailingBytes => s

/-- The state after `k` micro-steps of a command's loop, counted from the first byte that the loop reads in turn; NOP has
none (45_byte_serial.md R179 to R181). -/
def dpAfter (i : Instr) (k : Nat) (s : State) : State :=
  match i with
  | .csum => dpFoldLoop k s
  | .enc => dpEncLoop k s
  | .dec => dpTakeLoop 1 k s
  | .ser => dpSerLoop k s
  | .des => dpDesLoop k s
  | .tx => dpTxLoop k s
  | .rx => dpTakeLoop 2 k s
  | .nop => s
  | .ping _ | .assignID _ | .requestData _ | .setStandby _ | .setDischarge _ | .setCharge _ | .announceCompletion _
  | .reserved03 _ | .unassigned08 _ _ | .unassigned10 _ _ | .unassigned20 _ _ | .unassigned40 _ _
  | .unassigned80 _ _ | .delim _ _ | .stOK | .stTooShort | .stBadDelimiter | .stBadChecksum | .stUnknownFrameId
  | .stTruncatedPayload | .stTrailingBytes => s

/-- The variant of `DEC_DP`'s last test: fold the last byte as well and test for zero, report `ACC` with the last byte
taken out again (45_byte_serial.md R185). -/
def dpResidueTest (last : Byte) (t : State) : Bool × Byte :=
  let u := t.feed last
  (u.acc == 0x00, u.acc ^^^ last)

end Sys2Proof.Machine
end

