-- ==== Sys2Proof/Machine/Fields.lean ====
section
/-! DEFINITION. What a caller reads in the argument bytes of a frame: the fields, as numbers (30_encoding.md R69, R70,
20_memory.md R46). No command uses these. -/

namespace Sys2Proof.Machine

/-- Argument bytes cut into fields of the given widths, one after another without gaps (30_encoding.md R69). -/
def splitFields : List Nat → List Byte → List (List Byte)
  | [], _ => []
  | w :: ws, args => args.take w :: splitFields ws (args.drop w)

/-- The number a field's bytes are, the first byte the least significant. -/
def littleValue : List Byte → Nat
  | [] => 0
  | b :: bs => b.toNat + 256 * littleValue bs

/-- The number a field's bytes are, the first byte the most significant. -/
def bigValue : List Byte → Nat
  | [] => 0
  | b :: bs => b.toNat * 256 ^ bs.length + bigValue bs

/-- A field's value as an unsigned number (30_encoding.md R69). -/
def unsignedValue : FieldEndian → List Byte → Nat
  | .big, bs => bigValue bs
  | .little, bs => littleValue bs

/-- A field's value as a signed number: minus `256^w` when the top bit is set (30_encoding.md R69). -/
def signedValue (e : FieldEndian) (bs : List Byte) : Int :=
  let v := unsignedValue e bs
  if 2 * v < 256 ^ bs.length then (v : Int) else (v : Int) - 256 ^ bs.length

/-- The unsigned values of a frame's fields, in order, under the build's `FIELDS` and `FIELD_ENDIAN`. -/
def fieldValues (c : Config) (f : Frame) : List Nat :=
  (splitFields (c.fields.get f.kind) f.args).map (unsignedValue c.fieldEndian)

end Sys2Proof.Machine
end

