-- ==== Sys2Proof/Machine/Priority.lean ====
section
/-! DEFINITION. The order of the checks, as a list in which the first failing one is reported (60_exceptions.md R210). -/

namespace Sys2Proof.Machine

/-- The first check that fails. -/
def firstFailing : List (Bool × FrameError) → Option FrameError
  | [] => none
  | (failed, e) :: rest => if failed then some e else firstFailing rest

/-- Entries 1 to 3: the checks of the codec on wire bytes. -/
def codecChecks (w : List Byte) : List (Bool × FrameError) :=
  [(decide (w.length < 2), .tooShort),
   (w.head? != some delimiter, .badDelimiter),
   (some (xorfold w.dropLast) != w.getLast?, .badChecksum)]

/-- `ARGLEN` of a Frame ID byte, 0 for one that is no kind. -/
def arglenAt (c : Config) (fid : Byte) : Nat := ((Kind.ofFid fid).map c.arglenOf).getD 0

/-- Entries 4 to 7: the checks of the Frame Model on a payload. -/
def modelChecks (c : Config) (p : List Byte) : List (Bool × FrameError) :=
  [(p.isEmpty, .truncatedPayload),
   ((Kind.ofFid (p.headD 0)).isNone, .unknownFrameId),
   (decide (p.length - 1 < arglenAt c (p.headD 0)), .truncatedPayload),
   (decide (arglenAt c (p.headD 0) < p.length - 1), .trailingBytes)]

/-- The payload of wire bytes: bytes 1 to N-2. -/
def wirePayload (w : List Byte) : List Byte := (w.drop 1).dropLast

end Sys2Proof.Machine
end

