-- ==== Sys2Proof/Machine/Script.lean ====
section
/-! DEFINITION. The script notation for host programs and the results a host reads from them (30_encoding.md R75, R76). -/

namespace Sys2Proof.Machine

/-- The lines of a script (30_encoding.md R75). -/
inductive Line where
  | wb (i : Nat) (b : Byte)
  | wl (n : Nat)
  | wk (k : Byte)
  | cmd (code : BitVec 3)
  | rs | rk | rl | rc
  | rb (j : Nat)
deriving DecidableEq, Repr

/-- The host access a line stands for (30_encoding.md R75). -/
def Line.event (c : Config) : Line → HostEvent
  | .wb i b => .write (ibufBase c + i) (b.setWidth 16)
  | .wl n => .write 4 (BitVec.ofNat 16 n)
  | .wk k => .write 2 (k.setWidth 16)
  | .cmd code => .write 0 (code.setWidth 16)
  | .rs => .read 1
  | .rk => .read 3
  | .rl => .read 5
  | .rc => .read 6
  | .rb j => .read (obufBase c + j)

/-- The `WB` lines of a byte sequence from index `i`. -/
def wbLines (i : Nat) : List Byte → List Line
  | [] => []
  | b :: bs => .wb i b :: wbLines (i + 1) bs

/-- `LOAD` (30_encoding.md R75). -/
def loadLines (bytes : List Byte) : List Line := wbLines 0 bytes ++ [.wl bytes.length]

/-- `FRAME` (30_encoding.md R75). -/
def frameLines (k : Byte) (args : List Byte) : List Line := .wk k :: loadLines args

/-- `DUMP`, for an `OLEN` of `n` (30_encoding.md R75). -/
def dumpLines (n : Nat) : List Line := .rl :: (List.range n).map Line.rb

/-- `LOAD p; command; RS; DUMP`, or with `FRAME` in the place of `LOAD`: the script of a call, where `n` is what the `RL` of
`DUMP` will give (30_encoding.md R76). -/
def callLines (input : List Line) (code : BitVec 3) (n : Nat) : List Line := input ++ [.cmd code, .rs] ++ dumpLines n

/-- `LOAD p; DES; RS; RK; DUMP`, the script of `deserialize(p)` (30_encoding.md R76). -/
def deserializeLines (p : List Byte) (n : Nat) : List Line := loadLines p ++ [.cmd 5, .rs, .rk] ++ dumpLines n

/-- The `Err` of a call from the value that `RS` gave (30_encoding.md R72, R76). -/
def readError (status : PortWord) : Option FrameError := FrameError.ofCode (status.extractLsb' 0 4)

/-- The bytes that `DUMP` yields from the values it read; none when their number is not the `OLEN` read first, and the script
was not that of `DUMP` (30_encoding.md R75). -/
def readDump : List PortWord → Option (List Byte)
  | [] => none
  | len :: out => if len.toNat = out.length then some (out.map fun v => v.setWidth 8) else none

/-- The result of a call from the values that `RS; DUMP` read: `Ok` of the output sequence when `RS` gave 0x80, the error of
its `CODE` otherwise (30_encoding.md R76). -/
def readCall : List PortWord → Option (Except FrameError (List Byte))
  | [] => none
  | status :: dump =>
    match readDump dump with
    | none => none
    | some out => if status = 0x80 then some (.ok out) else (readError status).map .error

/-- The result of `deserialize` from the values that `RS; RK; DUMP` read: `Ok` of the pair (`KOUT`, output sequence), or the
error (30_encoding.md R76). -/
def readDeserialize : List PortWord → Option (Except FrameError (Byte × List Byte))
  | status :: kind :: dump =>
    (readCall (status :: dump)).map fun r => r.map fun out => (kind.setWidth 8, out)
  | _ => none

/-- Events taken one after another, stopping at the first fault or refusal. -/
def State.events : List HostEvent → State → Host.Outcome State Fault Refusal
  | [], s => .next s
  | e :: es, s =>
    match State.hostEvent e s with
    | .next t => State.events es t
    | .fault r => .fault r
    | .refused r => .refused r

/-- A script run from a state. -/
def State.script (lines : List Line) (s : State) : Host.Outcome State Fault Refusal :=
  State.events (lines.map (Line.event s.cfg)) s

end Sys2Proof.Machine
end

