-- ==== Sys2Proof/Safety.lean ====
section
/-! DEFINITION. What a good state is, and which steps a good state may refuse. -/

namespace Sys2Proof.Machine

/-- Bounds of the registers and buffers: widths (10_state.md R16, R17, R22), buffer sizes (R19, R20), canonical buffers,
every byte of the output sequence stored. -/
structure State.Sized (s : State) : Prop where
  cfg : s.cfg.wf
  ilen : s.ilen.toNat ≤ s.cfg.nmax
  olen : s.olen.toNat ≤ s.cfg.nmax + 3
  idx : s.idx ≤ s.cfg.nmax + 3
  ibuf : Memory.wf s.ibuf = true
  obuf : Memory.wf s.obuf = true
  ibufBelow : Memory.below s.ibuf s.cfg.nmax = true
  obufBelow : Memory.below s.obuf (s.cfg.nmax + 3) = true
  stored : ∀ j, j < s.olen.toNat → (Memory.read s.obuf j).isSome = true

/-- Between two events the outputs describe nothing yet or one completed command: `STATUS` is 0x00 with every output at
its reset value, or names a result; an error leaves no kind and no output; `KOUT` is a kind or 0xFF (10_state.md R13,
R15, R17, R25, 30_encoding.md R73); the sequencer is idle (10_state.md R22). -/
structure State.Settled (s : State) : Prop where
  status : s.status = 0x00 ∨ s.status = 0x80 ∨ ∃ e : FrameError, s.status = statusWord e.code
  reset : s.status = 0x00 → s.kout = 0xFF ∧ s.olen = 0 ∧ s.chk = 0x00
  error : s.status ≠ 0x80 → s.kout = 0xFF ∧ s.olen = 0
  kout : s.kout = 0xFF ∨ ∃ k : Kind, s.kout = k.fid
  ph : s.ph = .idle

/-- The invariant of the block. -/
structure State.Inv (s : State) : Prop where
  sized : s.Sized
  settled : s.Settled

/-- The premise of a command step: every byte of `IBUF[0..ILEN-1]` has been written since reset (20_memory.md R54). -/
def State.inputWritten (s : State) : Prop := ∀ i, i < s.n → (Memory.read s.ibuf i).isSome = true

/-- The input sequence of the next command is `bytes`: there are `ILEN` of them and each stands written in `IBUF` at its
index (00_scope.md R8, 10_state.md R19). -/
def State.inputIs (s : State) (bytes : List Byte) : Prop :=
  bytes.length = s.n ∧ ∀ i, i < s.n → Memory.read s.ibuf i = bytes[i]?

/-- What the host finds after a command: `STATUS`, `KOUT`, `CHK`, the output sequence, and zeros above it (10_state.md
R21). -/
def State.shows (t : State) (status kout chk : Byte) (out : List Byte) : Prop :=
  t.status = status ∧ t.kout = kout ∧ t.chk = chk ∧ t.olen.toNat = out.length ∧ t.output = out
    ∧ ∀ j, out.length ≤ j → t.obufRead j = 0x00

/-- A completion seen as a change from `s` to `t`: the outputs it shows, and its frame. The inputs and the host's side of
the port are as before, the cells of `OBUF` outside `out` too, and the sequencer is idle (00_scope.md R9, 10_state.md R11). -/
def State.completesTo (s t : State) (status kout chk : Byte) (out : List Byte) : Prop :=
  t.shows status kout chk out ∧ s.sameInputs t ∧ t.ph = .idle
    ∧ ∀ j, out.length ≤ j → Memory.read t.obuf j = Memory.read s.obuf j

/-- Is the event an access the port has, that is, an address of `AW` bits (30_encoding.md R74)? -/
def HostEvent.onPort (c : Config) : HostEvent → Prop
  | .read addr => addr < 2 ^ addressBits c
  | .write addr _ => addr < 2 ^ addressBits c
  | .reset => True

end Sys2Proof.Machine
end

