-- ==== Sys2Proof/Certificates/Slice0/Obligations.lean ====
section
/-! DEFINITION. The statements about the block, each with the rule of spec/ it formalises. A configuration is a field of
the state, so every statement holds for every well-formed one (log 1). -/

open Sys2Proof Sys2Proof.Machine

/-! ### Encodings -/

/-- Words written out from the tables of 30_encoding.md R61, R65, R71, R72 decode to the rows they stand for. -/
def Obligations.TableWordsDecodeToTheirRows : Prop :=
  decodeCmd 0x0000 = .nop ∧ decodeCmd 0x0006 = .tx ∧ decodeCmd 0xFFFB = .dec
  ∧ decode Config.ref .payload [0x00] = .ok (.ping [])
  ∧ decode Config.ref .payload [0x01, 0x2A] = .ok (.assignID [0x2A])
  ∧ decode Config.ref .payload [0x03, 0x55] = .ok (.reserved03 [0x55])
  ∧ decode Config.ref .payload [0x0D] = .ok (.unassigned08 0b101 [])
  ∧ decode Config.ref .payload [0xB3] = .ok (.unassigned80 0b0110011 [])
  ∧ decode Config.ref .wire [0xB3, 0x01, 0x2A, 0x98] = .ok (.delim [0x01, 0x2A] 0x98)
  ∧ decode Config.ref .status [0x83] = .ok .stBadChecksum

/-- 30_encoding.md R71 and 10_state.md R12: the command is the value's low three bits, bits 15:3 do not matter, all eight
codes are defined and name the eight commands in this order. -/
def Obligations.CommandIsTheLowThreeBitsWritten : Prop :=
  ∀ (hi : BitVec 13) (op : BitVec 3),
    [Instr.nop, .csum, .enc, .dec, .ser, .des, .tx, .rx][op.toNat]? = some (decodeCmd (hi ++ op : BitVec 16))

/-- Every well-formed instruction of every format decodes from its own bytes, with every operand the encoding admits. -/
def Obligations.DecodeOfEncodeIsTheInstruction : Prop :=
  ∀ (c : Config) (i : Instr), c.wf → i.wellFormed c = true → decode c i.format (encode i) = .ok i

/-- Payload, wire and status bytes that decode are exactly the bytes of the instruction they decode to, which is well formed
and of that format: no byte sequence is read as a neighbour's. -/
def Obligations.EncodeOfDecodeIsTheBytes : Prop :=
  ∀ (c : Config) (f : Format) (bytes : List Byte) (i : Instr),
    c.wf → f ≠ .cmd → decode c f bytes = .ok i → i.format = f ∧ i.wellFormed c = true ∧ encode i = bytes

/-! ### The port and the step -/

/-- One step is the host's next event: with none the block is idle and keeps its state (log 2), a read returns its value
(20_memory.md R41), which the host's list of replies keeps (log 3), and changes nothing else, a write does what its address
says, reset gives the reset state (70_reset_and_hazards.md R230) with the host's lists kept (log 11), and an address of more
than `LW + 3` bits is no access (log 10). -/
def Obligations.StepPerformsTheNextHostEvent : Prop :=
  ∀ (s : State) (rest : List HostEvent),
    (s.port = [] → step s = .next s)
    ∧ (∀ a, s.port = .read a :: rest → a < 2 ^ (s.cfg.lw + 3) →
        step s = .next { s with port := rest, replies := s.replies ++ [s.hostRead a] })
    ∧ (∀ a v, s.port = .write a v :: rest → a < 2 ^ (s.cfg.lw + 3) →
        step s = State.hostWrite a v { s with port := rest })
    ∧ (s.port = .reset :: rest → step s = .next (State.applyReset { s with port := rest }))
    ∧ (∀ a v, 2 ^ (s.cfg.lw + 3) ≤ a → s.port = .read a :: rest ∨ s.port = .write a v :: rest →
        step s = .fault .notAPortAddress)

/-- A step whose event writes `CMD` runs the command its value decodes to, with the event taken off the list (20_memory.md
R51, 10_state.md R12). -/
def Obligations.StepRunsTheCommandWritten : Prop :=
  ∀ (s : State) (v : PortWord) (rest : List HostEvent),
    s.port = .write 0 v :: rest → step s = exec (decodeCmd v) { s with port := rest }

/-- DES runs the payload row its input decodes to, with nothing folded (43_frame_model.md R128, R140; the reading of
payload rows as instructions is the model's, log 4). -/
def Obligations.DesRunsThePayloadRowOfItsInput : Prop :=
  ∀ (s : State) (bytes : List Byte) (i : Instr),
    s.inputIs bytes → decodePayload s.cfg bytes = .ok i → ∃ k, exec .des s = exec i (s.ran 0x00 k)

/-- DEC runs the wire row its input decodes to; RX runs, on a frame with the right checksum, the payload row of what is
between delimiter and checksum, with the checksum in `ACC` (44_pipeline.md R160, R163; log 4). -/
def Obligations.DecAndRxRunTheRowsOfTheirInput : Prop :=
  ∀ (s : State) (bytes : List Byte),
    s.inputIs bytes →
      (∀ i, decodeWire s.cfg bytes = .ok i → exec .dec s = exec i s)
      ∧ ∀ p i, bytes = delimiter :: (p ++ [checksum p]) → decodePayload s.cfg p = .ok i →
          ∃ k, exec .rx s = exec i (s.ran (checksum p) k)

/-- Every command that fails ends as the STATUS row of its result, with the checksum it reports in `ACC` (00_scope.md R9,
45_byte_serial.md R178; log 12). -/
def Obligations.EveryFailureIsAStatusRow : Prop :=
  ∀ (s t : State) (i : Instr),
    i.format = .cmd → i ≠ .nop → exec i s = .next t → t.status ≠ 0x80 →
      ∃ row k, decodeStatus t.status = .ok row ∧ row ≠ .stOK ∧ exec row (s.ran t.chk k) = .next t

/-- The address map (20_memory.md R42), with stray accesses (R43) and narrow locations (R44). -/
def Obligations.AddressMapReadsAndWrites : Prop :=
  ∀ s : State, s.cfg.wf →
    (s.hostRead 0 = 0
      ∧ (s.hostRead 1).toNat = s.status.toNat ∧ (s.hostRead 2).toNat = s.kin.toNat
      ∧ (s.hostRead 3).toNat = s.kout.toNat ∧ (s.hostRead 4).toNat = s.ilen.toNat
      ∧ (s.hostRead 5).toNat = s.olen.toNat ∧ (s.hostRead 6).toNat = s.chk.toNat
      ∧ s.hostRead 7 = 0
      ∧ (∀ a, 8 ≤ a → a < 2 ^ (s.cfg.lw + 1) → s.hostRead a = 0)
      ∧ (∀ i, i < s.cfg.nmax → s.hostRead (2 ^ (s.cfg.lw + 1) + i) = 0)
      ∧ (∀ a, 2 ^ (s.cfg.lw + 1) + s.cfg.nmax ≤ a → a < 2 ^ (s.cfg.lw + 2) → s.hostRead a = 0)
      ∧ (∀ j, j < s.cfg.nmax + 3 → (s.hostRead (2 ^ (s.cfg.lw + 2) + j)).toNat =
          if j < s.olen.toNat then (s.obufCell j).toNat else 0)
      ∧ ∀ a, 2 ^ (s.cfg.lw + 2) + s.cfg.nmax + 3 ≤ a → s.hostRead a = 0)
    ∧ ∀ v : PortWord,
      (State.hostWrite 0 v s = exec (decodeCmd v) s ∧ decodeCmd v = decodeCmd (BitVec.ofNat 16 (v.toNat % 8)))
      ∧ (∃ t, State.hostWrite 2 v s = .next t ∧ t = { s with kin := t.kin } ∧ t.kin.toNat = v.toNat % 2 ^ 8)
      ∧ (∃ t, State.hostWrite 4 v s = .next t ∧ t = { s with ilen := t.ilen }
          ∧ t.ilen.toNat = v.toNat % 2 ^ s.cfg.lw)
      ∧ (∀ i, i < s.cfg.nmax → ∃ t b, State.hostWrite (2 ^ (s.cfg.lw + 1) + i) v s = .next t
          ∧ t = { s with ibuf := t.ibuf } ∧ Memory.read t.ibuf i = some b ∧ b.toNat = v.toNat % 2 ^ 8
          ∧ ∀ j, j ≠ i → Memory.read t.ibuf j = Memory.read s.ibuf j)
      ∧ ∀ a, a = 1 ∨ a = 3 ∨ a = 5 ∨ a = 6 ∨ a = 7 ∨ (8 ≤ a ∧ a < 2 ^ (s.cfg.lw + 1))
          ∨ 2 ^ (s.cfg.lw + 1) + s.cfg.nmax ≤ a → State.hostWrite a v s = .next s

/-- Every access of the port is accepted, but a command other than NOP over an input that is not all written
(70_reset_and_hazards.md R242, 60_exceptions.md R207). -/
def Obligations.OnlyUnwrittenInputStopsAnAccess : Prop :=
  ∀ (s : State) (e : HostEvent) (rest : List HostEvent),
    s.port = e :: rest → e.onPort s.cfg →
      (∃ t, step s = .next t)
      ∨ (step s = .refused .inputNotWritten ∧ ∃ v, e = .write 0 v ∧ v.toNat % 8 ≠ 0 ∧ ¬ s.inputWritten)

/-- 70_reset_and_hazards.md R237: a command other than NOP is refused exactly when `ILEN` covers a byte not written since
reset; NOP is always allowed. -/
def Obligations.UnwrittenInputIsRefusedAndNopIsNot : Prop :=
  (∀ (s : State) (i : Instr), i.format = .cmd → i ≠ .nop →
    (exec i s = .refused .inputNotWritten ↔ ∃ k, k < s.ilen.toNat ∧ Memory.read s.ibuf k = none))
  ∧ ∀ s : State, exec .nop s = .next s

/-! ### Reset and the invariant -/

/-- 10_state.md R24, for every build: the reset value of each register, `CMD` reads 0, no byte of `IBUF` holds a value,
every read of `OBUF` gives 0x00, the hidden registers. -/
def Obligations.ResetStateHasTheSpecsValues : Prop :=
  ∀ c : Config, ∃ s, s = State.resetWith c
    ∧ s.status = 0x00 ∧ s.vld = false ∧ s.code = 0 ∧ s.kin = 0x00 ∧ s.kout = 0xFF ∧ s.ilen.toNat = 0
    ∧ s.olen.toNat = 0 ∧ s.chk = 0x00 ∧ s.hostRead 0 = 0
    ∧ (∀ i, Memory.read s.ibuf i = none) ∧ (∀ j, s.obufRead j = 0x00)
    ∧ s.acc = 0 ∧ s.idx = 0 ∧ s.ph = .idle

/-- 70_reset_and_hazards.md R231: after the reset event no byte of `IBUF` is written, whatever it held; the registers have
their reset values and the stored bytes of `OBUF` are left, unread (R230); that the host's events and replies are kept is the
model's (log 11). -/
def Obligations.ResetEventClearsTheInputRecord : Prop :=
  ∀ (s : State) (rest : List HostEvent), s.port = .reset :: rest →
    ∃ t, step s = .next t
      ∧ (∀ i, Memory.read t.ibuf i = none)
      ∧ t = { State.resetWith s.cfg with obuf := s.obuf, port := rest, replies := s.replies }
      ∧ ∀ j, t.obufRead j = 0x00

/-- 70_reset_and_hazards.md R232, for every command: a reset that arrives when its loop has just been set up, after any number
of its micro-steps, or when its last byte has been stored, gives what a reset before the command gives, in every register, in
the input record and in what the host can read. -/
def Obligations.ResetAbandonsARunningCommand : Prop :=
  ∀ (s t : State) (i : Instr) (k : Nat), i.format = .cmd → i ≠ .nop →
    (t = s.start ∨ t = dpAfter i k s ∨ ∃ j, t = (dpAfter i k s).putObuf j (dpAfter i k s).acc) →
      t.applyReset = { s.applyReset with obuf := t.obuf } ∧ t.applyReset.sameOutputs s.applyReset
        ∧ t.applyReset.status.getLsbD 7 = false

/-- Every well-formed build's reset state meets the invariant. -/
def Obligations.ResetMeetsTheInvariant : Prop :=
  ∀ c : Config, c.wf → (State.resetWith c).Inv

/-- Every step keeps the invariant: register widths, buffer sizes, the canonical form of both buffers, every byte of the
output sequence stored, `STATUS` only 0x00 or 0x80 to 0x86 (30_encoding.md R73), no kind and no output after an error, the
sequencer idle between events. -/
def Obligations.StepKeepsTheInvariant : Prop :=
  ∀ s t : State, s.Inv → step s = .next t → t.Inv

/-- Every row of the opcode table keeps the invariant. -/
def Obligations.EveryRowKeepsTheInvariant : Prop :=
  ∀ (s t : State) (i : Instr), s.Inv → i.wellFormed s.cfg = true → exec i s = .next t → t.Inv

/-! ### The commands -/

/-- 44_pipeline.md R161. -/
def Obligations.NopChangesNothing : Prop :=
  (∀ v : PortWord, v.toNat % 8 = 0 → decodeCmd v = .nop) ∧ ∀ s : State, exec .nop s = .next s

/-- 40_checksum.md R93. -/
def Obligations.CsumFoldsTheInput : Prop :=
  decodeCmd 1 = .csum
  ∧ ∀ (s : State) (bytes : List Byte), s.inputIs bytes →
    ∃ t, exec .csum s = .next t ∧ s.completesTo t 0x80 0xFF (xorfold bytes) []

/-- 41_encode.md R101, and the length law R102: two bytes of overhead, always. -/
def Obligations.EncFramesTheInput : Prop :=
  decodeCmd 2 = .enc
  ∧ (∀ p : List Byte, (wireEncode p).length = p.length + 2)
  ∧ ∀ (s : State) (bytes : List Byte), s.Sized → s.inputIs bytes →
    ∃ t c, exec .enc s = .next t ∧ c = 0xB3 ^^^ xorfold bytes ∧ t.olen.toNat = s.ilen.toNat + 2
      ∧ s.completesTo t 0x80 0xFF c (0xB3 :: (bytes ++ [c]))

/-- 42_decode.md R112: each failure and the success. -/
def Obligations.DecValidatesAndUnframes : Prop :=
  decodeCmd 3 = .dec
  ∧ ∀ (s : State) (bytes : List Byte), s.Sized → s.inputIs bytes →
    ∃ t, exec .dec s = .next t
      ∧ (bytes.length < 2 → s.completesTo t 0x81 0xFF 0x00 [])
      ∧ (∀ b0 b1 rest, bytes = b0 :: b1 :: rest → b0 ≠ 0xB3 → s.completesTo t 0x82 0xFF 0x00 [])
      ∧ (∀ p c, bytes = 0xB3 :: (p ++ [c]) → xorfold (0xB3 :: p) ≠ c →
          s.completesTo t 0x83 0xFF (xorfold (0xB3 :: p)) [])
      ∧ ∀ p c, bytes = 0xB3 :: (p ++ [c]) → xorfold (0xB3 :: p) = c → s.completesTo t 0x80 0xFF c p

/-- 43_frame_model.md R139: each failure and the success. -/
def Obligations.SerBuildsThePayload : Prop :=
  decodeCmd 4 = .ser
  ∧ ∀ (s : State) (bytes : List Byte), s.Sized → s.inputIs bytes →
    ∃ t, exec .ser s = .next t
      ∧ ((∀ k : Kind, k.fid ≠ s.kin) → s.completesTo t 0x84 0xFF 0x00 [])
      ∧ ∀ k : Kind, k.fid = s.kin →
          (bytes.length < s.cfg.arglenOf k → s.completesTo t 0x85 0xFF 0x00 [])
          ∧ (s.cfg.arglenOf k < bytes.length → s.completesTo t 0x86 0xFF 0x00 [])
          ∧ (bytes.length = s.cfg.arglenOf k → s.completesTo t 0x80 0xFF 0x00 (s.kin :: bytes))

/-- 43_frame_model.md R140: each failure and the success. -/
def Obligations.DesSplitsThePayload : Prop :=
  decodeCmd 5 = .des
  ∧ ∀ (s : State) (bytes : List Byte), s.Sized → s.inputIs bytes →
    ∃ t, exec .des s = .next t
      ∧ (bytes = [] → s.completesTo t 0x85 0xFF 0x00 [])
      ∧ (∀ fid args, bytes = fid :: args → (∀ k : Kind, k.fid ≠ fid) → s.completesTo t 0x84 0xFF 0x00 [])
      ∧ ∀ (k : Kind) (args : List Byte), bytes = k.fid :: args →
          (args.length < s.cfg.arglenOf k → s.completesTo t 0x85 0xFF 0x00 [])
          ∧ (s.cfg.arglenOf k < args.length → s.completesTo t 0x86 0xFF 0x00 [])
          ∧ (args.length = s.cfg.arglenOf k → s.completesTo t 0x80 k.fid 0x00 args)

/-- 44_pipeline.md R162: each failure and the success. -/
def Obligations.TxFramesAFrame : Prop :=
  decodeCmd 6 = .tx
  ∧ ∀ (s : State) (bytes : List Byte), s.Sized → s.inputIs bytes →
    ∃ t c, exec .tx s = .next t ∧ c = 0xB3 ^^^ s.kin ^^^ xorfold bytes
      ∧ ((∀ k : Kind, k.fid ≠ s.kin) → s.completesTo t 0x84 0xFF 0x00 [])
      ∧ ∀ k : Kind, k.fid = s.kin →
          (bytes.length < s.cfg.arglenOf k → s.completesTo t 0x85 0xFF 0x00 [])
          ∧ (s.cfg.arglenOf k < bytes.length → s.completesTo t 0x86 0xFF 0x00 [])
          ∧ (bytes.length = s.cfg.arglenOf k →
              s.completesTo t 0x80 0xFF c (0xB3 :: s.kin :: (bytes ++ [c])))

/-- 44_pipeline.md R163: each failure and the success. -/
def Obligations.RxRecognisesAFrame : Prop :=
  decodeCmd 7 = .rx
  ∧ ∀ (s : State) (bytes : List Byte), s.Sized → s.inputIs bytes →
    ∃ t, exec .rx s = .next t
      ∧ (bytes.length < 2 → s.completesTo t 0x81 0xFF 0x00 [])
      ∧ (∀ b0 b1 rest, bytes = b0 :: b1 :: rest → b0 ≠ 0xB3 → s.completesTo t 0x82 0xFF 0x00 [])
      ∧ (∀ p c, bytes = 0xB3 :: (p ++ [c]) → xorfold (0xB3 :: p) ≠ c →
          s.completesTo t 0x83 0xFF (xorfold (0xB3 :: p)) [])
      ∧ (bytes = [0xB3, 0xB3] → s.completesTo t 0x85 0xFF 0xB3 [])
      ∧ (∀ fid args c, bytes = 0xB3 :: fid :: (args ++ [c]) → xorfold (0xB3 :: fid :: args) = c →
          (∀ k : Kind, k.fid ≠ fid) → s.completesTo t 0x84 0xFF c [])
      ∧ ∀ (k : Kind) (args : List Byte) (c : Byte),
          bytes = 0xB3 :: k.fid :: (args ++ [c]) → xorfold (0xB3 :: k.fid :: args) = c →
            (args.length < s.cfg.arglenOf k → s.completesTo t 0x85 0xFF c [])
            ∧ (s.cfg.arglenOf k < args.length → s.completesTo t 0x86 0xFF c [])
            ∧ (args.length = s.cfg.arglenOf k → s.completesTo t 0x80 k.fid c args)

/-! ### The rows of the other formats -/

/-- Ping, AssignID, RequestData, SetStandby, SetDischarge, SetCharge, AnnounceCompletion: the discriminator recognises the
kind and gives its argument bytes, or reports that they are too few or too many (43_frame_model.md R128 to R136). `CHK` is
what XACC has folded (log 12); the hidden registers are left. -/
def Obligations.KindRowsAreRecognised : Prop :=
  ∀ (s : State) (k : Kind) (args : List Byte), s.cfg.wf →
    ∃ t, exec (Instr.ofKind k args) s = .next t ∧ t.acc = s.acc ∧ t.idx = s.idx
      ∧ (args.length = s.cfg.arglenOf k → s.completesTo t 0x80 k.fid s.acc args)
      ∧ (args.length < s.cfg.arglenOf k → s.completesTo t 0x85 0xFF s.acc [])
      ∧ (s.cfg.arglenOf k < args.length → s.completesTo t 0x86 0xFF s.acc [])

/-- RESERVED_03 and UNASSIGNED_08, _10, _20, _40, _80: `UnknownFrameId`, whatever bits and bytes follow (43_frame_model.md
R137, R138; log 4, log 12). -/
def Obligations.RowsWithNoKindRaiseUnknownFrameId : Prop :=
  ∀ (s : State) (i : Instr) (rest : List Byte),
    (i = .reserved03 rest ∨ (∃ x, i = .unassigned08 x rest) ∨ (∃ x, i = .unassigned10 x rest)
      ∨ (∃ x, i = .unassigned20 x rest) ∨ (∃ x, i = .unassigned40 x rest) ∨ ∃ x, i = .unassigned80 x rest) →
    ∃ t, exec i s = .next t ∧ s.completesTo t 0x84 0xFF s.acc [] ∧ t.acc = s.acc ∧ t.idx = s.idx

/-- DELIM: a frame is accepted exactly when its last byte is the fold of the bytes before it (30_encoding.md R61,
42_decode.md R112; log 4). -/
def Obligations.DelimRowIsValidated : Prop :=
  ∀ (s : State) (p : List Byte) (c : Byte), s.cfg.wf → (Instr.delim p c).wellFormed s.cfg = true →
    ∃ t, exec (.delim p c) s = .next t
      ∧ (c = 0xB3 ^^^ xorfold p → s.completesTo t 0x80 0xFF c p)
      ∧ (c ≠ 0xB3 ^^^ xorfold p → s.completesTo t 0x83 0xFF (0xB3 ^^^ xorfold p) [])

/-- ST_OK, ST_TooShort, ST_BadDelimiter, ST_BadChecksum, ST_UnknownFrameId, ST_TruncatedPayload, ST_TrailingBytes: the
completion with that result; TooShort and BadDelimiter report no checksum, the others what XACC has folded (60_exceptions.md
R201 to R207; log 12). The hidden `ACC` and `IDX` are left. -/
def Obligations.StatusRowsComplete : Prop :=
  ∀ (s : State) (i : Instr) (st chk : Byte),
    (i = .stOK ∧ st = 0x80 ∧ chk = s.acc) ∨ (i = .stTooShort ∧ st = 0x81 ∧ chk = 0x00)
      ∨ (i = .stBadDelimiter ∧ st = 0x82 ∧ chk = 0x00) ∨ (i = .stBadChecksum ∧ st = 0x83 ∧ chk = s.acc)
      ∨ (i = .stUnknownFrameId ∧ st = 0x84 ∧ chk = s.acc) ∨ (i = .stTruncatedPayload ∧ st = 0x85 ∧ chk = s.acc)
      ∨ (i = .stTrailingBytes ∧ st = 0x86 ∧ chk = s.acc) →
    ∃ t, exec i s = .next t ∧ s.completesTo t st 0xFF chk [] ∧ t.acc = s.acc ∧ t.idx = s.idx

/-! ### Rules over all commands -/

/-- The frame of every row: the parameters, `KIN`, `ILEN`, `IBUF` and the host's side of the port are as before
(10_state.md R11, 60_exceptions.md R211), and so is every cell of `OBUF` at or above the new `OLEN` (00_scope.md R9;
log 13). -/
def Obligations.RowsLeaveInputsAndHigherOutputCells : Prop :=
  ∀ (s t : State) (i : Instr), s.Sized → i.wellFormed s.cfg = true → exec i s = .next t →
    s.sameInputs t ∧ ∀ j, t.olen.toNat ≤ j → Memory.read t.obuf j = Memory.read s.obuf j

/-- 10_state.md R10: the result of a command other than NOP depends on nothing but its code, `KIN`, `ILEN` and
`IBUF[0..ILEN-1]` (and the parameters); for CSUM, ENC, DEC, DES and RX not on `KIN` either. -/
def Obligations.CommandsDependOnTheirInputsOnly : Prop :=
  ∀ (s1 s2 : State) (i : Instr), i.format = .cmd → i ≠ .nop →
    s1.cfg = s2.cfg → s1.ilen = s2.ilen → s1.cfg.wf → s1.ilen.toNat ≤ s1.cfg.nmax →
    (∀ k, k < s1.ilen.toNat → Memory.read s1.ibuf k = Memory.read s2.ibuf k) →
    (s1.kin = s2.kin ∨ (i ≠ .ser ∧ i ≠ .tx)) →
      (exec i s1 = .refused .inputNotWritten ∧ exec i s2 = .refused .inputNotWritten)
      ∨ ∃ t1 t2, exec i s1 = .next t1 ∧ exec i s2 = .next t2 ∧ t1.sameOutputs t2

/-- 10_state.md R13: after a command other than NOP `VLD` is 1, bits 6:4 are 0 and `CODE` is 0 to 6; no command reads
`STATUS`; the host cannot write it; after reset it is 0. -/
def Obligations.StatusDescribesTheLastCommandOnly : Prop :=
  ∀ (s : State) (i : Instr), i.format = .cmd → i ≠ .nop → s.cfg.wf →
    (∀ t, exec i s = .next t → t.vld = true ∧ t.status.extractLsb' 4 3 = 0#3 ∧ t.code.toNat ≤ 6)
    ∧ (∀ x, exec i { s with status := x } = exec i s)
    ∧ (∀ v, State.hostWrite 1 v s = .next s)
    ∧ (State.resetWith s.cfg).status = 0x00

/-- 10_state.md R15, with 43_frame_model.md R126: after a DES or RX that succeeds `KOUT` is the Frame ID of the recognised frame,
`IBUF[0]` for DES and `IBUF[1]` for RX, a kind whose `ARGLEN` is `OLEN`; after every other completion it is 0xFF, which is no
kind; a host write does not change it. -/
def Obligations.KoutIsAKindOnlyAfterAnAcceptedFrame : Prop :=
  ∀ (s t : State) (i : Instr), s.Sized → i.format = .cmd → i ≠ .nop → exec i s = .next t →
    (t.status = 0x80 → i = .des → Memory.read s.ibuf 0 = some t.kout)
    ∧ (t.status = 0x80 → i = .rx → Memory.read s.ibuf 1 = some t.kout)
    ∧ (t.status = 0x80 ∧ (i = .des ∨ i = .rx) → ∃ k : Kind, t.kout = k.fid ∧ t.olen.toNat = s.cfg.arglenOf k)
    ∧ (¬(t.status = 0x80 ∧ (i = .des ∨ i = .rx)) → t.kout = 0xFF)
    ∧ (∀ k : Kind, k.fid ≠ 0xFF)
    ∧ ∀ v, State.hostWrite 3 v s = .next s

/-- 10_state.md R17: `OLEN` is the length of the output sequence, 0 after a failure and after CSUM, at most `ILEN + 3` and that
much after a successful TX, fits `LW + 1` bits; a host write does not change it. -/
def Obligations.OlenIsBounded : Prop :=
  ∀ (s t : State) (i : Instr), s.Sized → i.format = .cmd → i ≠ .nop → exec i s = .next t →
    (t.status ≠ 0x80 ∨ i = .csum → t.olen.toNat = 0)
    ∧ t.olen.toNat ≤ s.ilen.toNat + 3 ∧ t.olen.toNat ≤ s.cfg.nmax + 3 ∧ t.olen.toNat < 2 ^ (s.cfg.lw + 1)
    ∧ (i = .tx → t.status = 0x80 → t.olen.toNat = s.ilen.toNat + 3)
    ∧ t.output.length = t.olen.toNat
    ∧ ∀ v, State.hostWrite 5 v s = .next s

/-- 10_state.md R18: what `CHK` holds after each command; no command reads it; a host write does not change it. -/
def Obligations.ChkHoldsTheChecksumComputed : Prop :=
  ∀ (s t : State) (i : Instr) (bytes : List Byte), s.Sized → s.inputIs bytes → exec i s = .next t →
    (i = .csum → t.chk = xorfold bytes)
    ∧ ((i = .enc ∨ i = .tx) → t.status = 0x80 → some t.chk = t.output.getLast?)
    ∧ ((i = .dec ∨ i = .rx) → 2 ≤ bytes.length → bytes.head? = some 0xB3 → t.chk = xorfold bytes.dropLast)
    ∧ ((i = .dec ∨ i = .rx) → bytes.length < 2 ∨ bytes.head? ≠ some 0xB3 → t.chk = 0x00)
    ∧ ((i = .ser ∨ i = .des) → t.chk = 0x00)
    ∧ (i = .tx → t.status ≠ 0x80 → t.chk = 0x00)
    ∧ (i.format = .cmd → i ≠ .nop → ∀ x, exec i { s with chk := x } = exec i s)
    ∧ ∀ v, State.hostWrite 6 v s = .next s

/-- 60_exceptions.md R210 and 44_pipeline.md R164: one command reports one error, the first in the order of the list; DEC
uses entries 1 to 3, DES 4 to 7, RX all seven, SER and TX 5 to 7. -/
def Obligations.FirstFailingCheckIsReported : Prop :=
  ∀ (s : State) (bytes : List Byte) (i : Instr) (checks : List (Bool × FrameError)), s.inputIs bytes →
    (i = .dec ∧ checks = codecChecks bytes)
      ∨ (i = .des ∧ checks = modelChecks s.cfg bytes)
      ∨ (i = .rx ∧ checks = codecChecks bytes ++ modelChecks s.cfg (wirePayload bytes))
      ∨ ((i = .ser ∨ i = .tx) ∧ checks = (modelChecks s.cfg (s.kin :: bytes)).drop 1) →
    ∃ t, exec i s = .next t
      ∧ t.status = (match firstFailing checks with
          | none => 0x80
          | some e => statusWord e.code)

/-! ### The functions of the codec -/

/-- 40_checksum.md R90: the fold's two equations, and each bit of it is the parity of that bit of the bytes. -/
def Obligations.XorfoldIsBitwiseParity : Prop :=
  xorfold [] = 0x00 ∧ (∀ s b, xorfold (s ++ [b]) = xorfold s ^^^ b)
  ∧ ∀ (s : List Byte) (t : Nat), t < 8 →
      (xorfold s).getLsbD t = ((s.filter fun b => b.getLsbD t).length % 2 == 1)

/-- 40_checksum.md R91. -/
def Obligations.XorfoldLaws : Prop :=
  (∀ s t : List Byte, xorfold (s ++ t) = xorfold s ^^^ xorfold t)
  ∧ (∀ s t : List Byte, s.Perm t → xorfold s = xorfold t)
  ∧ (∀ b : Byte, xorfold [b] = b ∧ xorfold [b, b] = 0x00)
  ∧ (∀ s : List Byte, xorfold (s ++ [xorfold s]) = 0x00)
  ∧ ∀ s t : List Byte, xorfold (s ++ 0x00 :: t) = xorfold (s ++ t)

/-- 40_checksum.md R95. -/
def Obligations.ResidueLaw : Prop :=
  (∀ w : List Byte, 1 ≤ w.length → (w.getLast? = some (xorfold w.dropLast) ↔ xorfold w = 0x00))
  ∧ ∀ p : List Byte, xorfold (wireEncode p) = 0x00

/-- A sequence as long as an accepted frame, with its first byte and any other bytes changed, is accepted exactly when the
error bytes fold to zero; so a change confined to one byte is detected, and a rearranged payload is not (40_checksum.md
section 4). -/
def Obligations.ErrorPassesExactlyWhenItFoldsToZero : Prop :=
  (∀ (p e : List Byte), e.length = p.length + 1 →
      let w' := delimiter :: List.zipWith (· ^^^ ·) (p ++ [checksum p]) e
      ((∃ q, wireDecode w' = .ok q) ↔ xorfold e = 0x00)
      ∧ (xorfold e ≠ 0x00 → wireDecode w' = .error .badChecksum))
  ∧ (∀ (p : List Byte) (i : Nat) (x : Byte), i ≤ p.length → x ≠ 0x00 →
      wireDecode ((wireEncode p).modify (i + 1) (· ^^^ x)) = .error .badChecksum)
  ∧ ∀ p q : List Byte, p.Perm q → wireDecode (delimiter :: (q ++ [checksum p])) = .ok q

/-- 41_encode.md R104; that ENCODE depends on nothing but its payload is its type. -/
def Obligations.EncodeLaws : Prop :=
  (∀ p : List Byte, xorfold (wireEncode p) = 0x00)
  ∧ (∀ p q : List Byte, wireEncode p = wireEncode q → p = q)
  ∧ ∀ p : List Byte, wireDecode (wireEncode p) = .ok p

/-- 42_decode.md R118. -/
def Obligations.DecodeIsTheExactInverseOfEncode : Prop :=
  ∀ w p : List Byte, wireDecode w = .ok p ↔ w = wireEncode p

/-- 42_decode.md R114: one flipped bit in byte 0 gives BadDelimiter, in any other byte BadChecksum. -/
def Obligations.EverySingleBitFlipIsRejected : Prop :=
  ∀ (p : List Byte) (i t : Nat), i < (wireEncode p).length → t < 8 →
    wireDecode ((wireEncode p).modify i (· ^^^ BitVec.twoPow 8 t)) =
      if i = 0 then .error .badDelimiter else .error .badChecksum

/-- One byte too many: behind a frame it is rejected unless it is 0x00, which makes the old checksum a payload byte; before
a frame it is always rejected (42_decode.md R119). -/
def Obligations.ExtraByteAroundAFrame : Prop :=
  ∀ (p : List Byte) (x : Byte),
    wireDecode (wireEncode p ++ [x]) = (if x = 0x00 then .ok (p ++ [checksum p]) else .error .badChecksum)
    ∧ wireDecode (x :: wireEncode p) = (if x = 0xB3 then .error .badChecksum else .error .badDelimiter)

/-- 42_decode.md R113: the round trip, as functions and as two commands with the output copied to the input. -/
def Obligations.DecAfterEncGivesThePayload : Prop :=
  (∀ p : List Byte, wireDecode (wireEncode p) = .ok p)
  ∧ ∀ (s : State) (p : List Byte), s.Inv → s.inputIs p → p.length ≤ s.cfg.nmax - 2 →
      ∃ t u, exec .enc s = .next t ∧ exec .dec (t.load t.output) = .next u
        ∧ u.status = 0x80 ∧ u.olen.toNat = p.length ∧ u.output = p

/-! ### The Frame Model and the whole flow -/

/-- Frame IDs 0x03 and 0x08 to 0xFF are no kind: `UnknownFrameId` from DESERIALIZE, DES and RX whatever follows, and from
SER and TX whatever the input (43_frame_model.md R137, R138). -/
def Obligations.ReservedAndUnassignedIdsAreRejected : Prop :=
  ∀ v : Byte, v = 0x03 ∨ 0x08 ≤ v →
    (∀ k : Kind, k.fid ≠ v)
    ∧ (∀ c x, deserialize c (v :: x) = .error .unknownFrameId)
    ∧ (∀ x, wireDecode (wireEncode (v :: x)) = .ok (v :: x))
    ∧ ∀ (s : State) (x : List Byte), s.Sized →
        (s.inputIs (v :: x) → ∃ t, exec .des s = .next t ∧ s.completesTo t 0x84 0xFF 0x00 [])
        ∧ (s.inputIs (wireEncode (v :: x)) →
            ∃ t, exec .rx s = .next t ∧ s.completesTo t 0x84 0xFF (checksum (v :: x)) [])
        ∧ (s.kin = v → s.inputIs x →
            (∃ t, exec .ser s = .next t ∧ s.completesTo t 0x84 0xFF 0x00 [])
            ∧ ∃ t, exec .tx s = .next t ∧ s.completesTo t 0x84 0xFF 0x00 [])

/-- 43_frame_model.md R141: both round trips; the second needs the REJECT policy. -/
def Obligations.SerializeAndDeserializeAreInverse : Prop :=
  (∀ (c : Config) (f : Frame), f.wf c = true →
    deserialize c (serialize f) = .ok f ∧ (serialize f).head? = some f.kind.fid)
  ∧ (∀ (c : Config) (p : List Byte) (f : Frame), deserialize c p = .ok f → serialize f = p ∧ f.wf c = true)
  ∧ ∃ (c : Config) (p : List Byte) (f : Frame), c.wf ∧ deserializeUnder .ignore c p = .ok f ∧ serialize f ≠ p

/-- 43_frame_model.md R142: this hardware rejects; the policy not taken keeps the first `ARGLEN` argument bytes exactly where
this one reports `TrailingBytes`, and never reports it. -/
def Obligations.TrailingBytesAreRejected : Prop :=
  ∀ (c : Config) (p : List Byte),
    deserialize c p = deserializeUnder .reject c p
    ∧ deserializeUnder .ignore c p ≠ .error .trailingBytes
    ∧ (deserialize c p ≠ .error .trailingBytes → deserializeUnder .ignore c p = deserialize c p)
    ∧ ∀ (k : Kind) (x : List Byte), p = k.fid :: x → c.arglenOf k < x.length →
        deserialize c p = .error .trailingBytes
        ∧ deserializeUnder .ignore c p = .ok ⟨k, x.take (c.arglenOf k)⟩

/-- 44_pipeline.md R165: TX then RX gives the frame back, and what RX accepts is what TX produces from it. -/
def Obligations.RxInvertsTx : Prop :=
  (∀ (c : Config) (f : Frame), f.wf c = true → rxFrame c (txFrame f) = .ok f)
  ∧ (∀ (s : State) (k : Kind) (args : List Byte), s.Inv → s.kin = k.fid → s.inputIs args →
      args.length = s.cfg.arglenOf k →
      ∃ t u, exec .tx s = .next t ∧ exec .rx (t.load t.output) = .next u
        ∧ u.status = 0x80 ∧ u.kout = k.fid ∧ u.olen.toNat = args.length ∧ u.output = args)
  ∧ ∀ (s : State) (w : List Byte) (u : State), s.Inv → s.inputIs w → exec .rx s = .next u → u.status = 0x80 →
      ∃ t, exec .tx ((u.load u.output).setKin (u.kout.setWidth 16)) = .next t ∧ t.status = 0x80 ∧ t.output = w

/-- 44_pipeline.md R160: SER then ENC is TX; DEC then DES, with the output copied to the input, is RX but for `CHK`, which
DES clears and RX keeps. -/
def Obligations.ComposedCommandsAreTheTwoStepWays : Prop :=
  ∀ (s : State) (bytes : List Byte), s.Inv → s.inputIs bytes →
    (∃ t u, exec .dec s = .next t ∧ exec .rx s = .next u ∧ u.chk = t.chk
      ∧ (t.status ≠ 0x80 → u.sameOutputs t)
      ∧ (t.status = 0x80 → ∃ v, exec .des (t.load t.output) = .next v
          ∧ u.status = v.status ∧ u.kout = v.kout ∧ u.olen = v.olen ∧ ∀ j, u.obufRead j = v.obufRead j))
    ∧ ∃ t u, exec .ser s = .next t ∧ exec .tx s = .next u
      ∧ (t.status ≠ 0x80 → u.sameOutputs t)
      ∧ (t.status = 0x80 → ∃ v, exec .enc (t.load t.output) = .next v ∧ u.sameOutputs v)

/-- 30_encoding.md R69: where field `f` stands, and its unsigned and signed values in both byte orders; the fields of a frame
under the build's `FIELDS` and `FIELD_ENDIAN` are its argument bytes without gaps, and `fieldValues` gives the unsigned value of
each in the build's byte order. -/
def Obligations.FieldsReadAsTheSpecSays : Prop :=
  (∀ (ws : List Nat) (args : List Byte) (f : Nat) (w : Nat), ws[f]? = some w →
    (splitFields ws args)[f]? = some ((args.drop (ws.take f).sum).take w))
  ∧ (∀ bs : List Byte, unsignedValue .little bs =
      ((List.range bs.length).map fun t => (bs.getD t 0).toNat * 256 ^ t).sum)
  ∧ (∀ bs : List Byte, unsignedValue .big bs =
      ((List.range bs.length).map fun t => (bs.getD t 0).toNat * 256 ^ (bs.length - 1 - t)).sum)
  ∧ (∀ (e : FieldEndian) (bs : List Byte) (top : Byte),
      top = (match e with | .big => bs.headD 0 | .little => bs.getLastD 0) →
      signedValue e bs = if top.getLsbD 7 then (unsignedValue e bs : Int) - 256 ^ bs.length else unsignedValue e bs)
  ∧ ∀ (c : Config) (fr : Frame), c.wf → fr.wf c = true →
      (splitFields (c.fields.get fr.kind) fr.args).flatten = fr.args
      ∧ (fieldValues c fr).length = (c.fields.get fr.kind).length
      ∧ ∀ (f w : Nat), (c.fields.get fr.kind)[f]? = some w →
          ((fr.args.drop ((c.fields.get fr.kind).take f).sum).take w).length = w
          ∧ (fieldValues c fr)[f]? =
              some (unsignedValue c.fieldEndian ((fr.args.drop ((c.fields.get fr.kind).take f).sum).take w))

/-! ### Scripts -/

/-- 30_encoding.md R75: the lines of `LOAD` and `FRAME`, run as host accesses, put the bytes, their number and for `FRAME` the
kind where the next command reads them and change nothing else, no byte of `IBUF` above them either. -/
def Obligations.LoadScriptPutsTheInput : Prop :=
  ∀ (s : State) (k : Byte) (bytes : List Byte), s.cfg.wf → bytes.length ≤ s.cfg.nmax →
    (∃ t, s.script (loadLines bytes) = .next t ∧ t.inputIs bytes
      ∧ t = { s with ibuf := t.ibuf, ilen := t.ilen }
      ∧ ∀ j, bytes.length ≤ j → Memory.read t.ibuf j = Memory.read s.ibuf j)
    ∧ ∃ t, s.script (frameLines k bytes) = .next t ∧ t.inputIs bytes ∧ t.kin = k
        ∧ t = { s with ibuf := t.ibuf, ilen := t.ilen, kin := t.kin }
        ∧ ∀ j, bytes.length ≤ j → Memory.read t.ibuf j = Memory.read s.ibuf j

/-- 30_encoding.md R75: `DUMP` gives the host `OLEN` and then the output sequence, and changes nothing. -/
def Obligations.DumpScriptYieldsTheOutput : Prop :=
  ∀ s : State, s.Sized →
    s.script (dumpLines s.olen.toNat) =
      .next { s with replies := s.replies ++ s.olen :: s.output.map (fun b => b.setWidth 16) }

/-- 30_encoding.md R76: the whole script of each call of the document, `RS`, `RK` and `DUMP` with it, run as host accesses; its
result, made of nothing but the values the port returned to it (kept in `replies`, log 3), is the function's value or error. -/
def Obligations.CallScriptsComputeTheFunctions : Prop :=
  ∀ (s : State) (bytes : List Byte), s.Inv → bytes.length ≤ s.cfg.nmax →
    (∃ n t r, s.script (callLines (loadLines bytes) 2 n) = .next t ∧ t.replies = s.replies ++ r
      ∧ readCall r = some (.ok (wireEncode bytes)))
    ∧ (∃ n t r, s.script (callLines (loadLines bytes) 3 n) = .next t ∧ t.replies = s.replies ++ r
      ∧ readCall r = some (wireDecode bytes))
    ∧ (∀ k : Kind, bytes.length = s.cfg.arglenOf k →
        ∃ n t r, s.script (callLines (frameLines k.fid bytes) 4 n) = .next t ∧ t.replies = s.replies ++ r
          ∧ readCall r = some (.ok (serialize ⟨k, bytes⟩)))
    ∧ ∃ n t r, s.script (deserializeLines bytes n) = .next t ∧ t.replies = s.replies ++ r
        ∧ readDeserialize r = some ((deserialize s.cfg bytes).map fun f => (f.kind.fid, f.args))

/-! ### The byte-serial datapath -/

/-- 45_byte_serial.md R178: bytes fed to XACC from the start of a command fold; at completion `CHK` is `ACC` where a checksum
is computed and 0x00 after SER and DES. -/
def Obligations.XaccFoldsWhatItIsFed : Prop :=
  (∀ (s : State) (bs : List Byte), (bs.foldl (fun t b => State.feed b t) s.start).acc = xorfold bs)
  ∧ ∀ (s : State) (i : Instr), i.format = .cmd → i ≠ .nop →
      (dpRun i s).chk = if i = .ser ∨ i = .des then 0x00 else (dpRun i s).acc

/-- The invariant of `ENC_DP`: after `k` input bytes, `OBUF[0..k]` is the delimiter and those bytes, `ACC` is 0xB3 folded
with them, and `IDX` is `k` (45_byte_serial.md R179). -/
def Obligations.EncLoopInvariant : Prop :=
  ∀ (s : State) (bytes : List Byte) (k : Nat), s.inputIs bytes → k ≤ bytes.length →
    ∃ t, t = dpEncLoop k s ∧ t.acc = 0xB3 ^^^ xorfold (bytes.take k) ∧ t.idx = k
      ∧ Memory.readList t.obuf 0 (k + 1) = some (0xB3 :: bytes.take k)

/-- The invariant of `DEC_DP`: after the micro-step with `IDX = k`, `OBUF[0..k-1]` is `in[1..k]`, `ACC` is the fold of
`in[0..k]`, and `IDX` has advanced to `k + 1` (45_byte_serial.md R180; log 15). -/
def Obligations.DecLoopInvariant : Prop :=
  ∀ (s : State) (bytes : List Byte) (k : Nat), s.inputIs bytes → 1 ≤ k → k + 2 ≤ bytes.length →
    ∃ t, t = dpTakeLoop 1 k s ∧ t.acc = xorfold (bytes.take (k + 1)) ∧ t.idx = k + 1
      ∧ Memory.readList t.obuf 0 k = some ((bytes.drop 1).take k)

/-- 45_byte_serial.md R185: folding the last byte too and testing for zero is the compare, and taking it out again gives the
expected checksum. -/
def Obligations.ResidueTestIsTheCompare : Prop :=
  ∀ (last : Byte) (t : State), dpResidueTest last t = (decide (t.acc = last), t.acc)

/-- 45_byte_serial.md R183: for every command and every written input, the byte-serial loop leaves the host the outputs that
the atomic command leaves; the loop also leaves the inputs alone. That the hidden registers agree too is the model's
(log 6). -/
def Obligations.ByteSerialLoopsComputeTheCommands : Prop :=
  ∀ (s : State) (i : Instr), s.Sized → i.format = .cmd → s.inputWritten →
    ∃ t, exec i s = .next t ∧ t.sameOutputs (dpRun i s) ∧ t.sameInputs (dpRun i s)
      ∧ t.acc = (dpRun i s).acc ∧ t.idx = (dpRun i s).idx ∧ t.ph = (dpRun i s).ph
end

