-- ==== Sys2Proof/Laws/Datapath.lean ====
section
/-! SUPPORT. What each update of the byte-serial datapath does to each field, and how a loop unrolls at its end. -/

namespace Sys2Proof.Machine

@[simp] theorem State.feed_cfg (b : Byte) (s : State) : (s.feed b).cfg = s.cfg := rfl
@[simp] theorem State.feed_status (b : Byte) (s : State) : (s.feed b).status = s.status := rfl
@[simp] theorem State.feed_kin (b : Byte) (s : State) : (s.feed b).kin = s.kin := rfl
@[simp] theorem State.feed_kout (b : Byte) (s : State) : (s.feed b).kout = s.kout := rfl
@[simp] theorem State.feed_ilen (b : Byte) (s : State) : (s.feed b).ilen = s.ilen := rfl
@[simp] theorem State.feed_olen (b : Byte) (s : State) : (s.feed b).olen = s.olen := rfl
@[simp] theorem State.feed_chk (b : Byte) (s : State) : (s.feed b).chk = s.chk := rfl
@[simp] theorem State.feed_ibuf (b : Byte) (s : State) : (s.feed b).ibuf = s.ibuf := rfl
@[simp] theorem State.feed_obuf (b : Byte) (s : State) : (s.feed b).obuf = s.obuf := rfl
@[simp] theorem State.feed_acc (b : Byte) (s : State) : (s.feed b).acc = s.acc ^^^ b := rfl
@[simp] theorem State.feed_idx (b : Byte) (s : State) : (s.feed b).idx = s.idx := rfl
@[simp] theorem State.feed_ph (b : Byte) (s : State) : (s.feed b).ph = s.ph := rfl
@[simp] theorem State.feed_port (b : Byte) (s : State) : (s.feed b).port = s.port := rfl
@[simp] theorem State.feed_replies (b : Byte) (s : State) : (s.feed b).replies = s.replies := rfl

@[simp] theorem State.putObuf_cfg (j : Nat) (b : Byte) (s : State) : (s.putObuf j b).cfg = s.cfg := rfl
@[simp] theorem State.putObuf_status (j : Nat) (b : Byte) (s : State) : (s.putObuf j b).status = s.status := rfl
@[simp] theorem State.putObuf_kin (j : Nat) (b : Byte) (s : State) : (s.putObuf j b).kin = s.kin := rfl
@[simp] theorem State.putObuf_kout (j : Nat) (b : Byte) (s : State) : (s.putObuf j b).kout = s.kout := rfl
@[simp] theorem State.putObuf_ilen (j : Nat) (b : Byte) (s : State) : (s.putObuf j b).ilen = s.ilen := rfl
@[simp] theorem State.putObuf_olen (j : Nat) (b : Byte) (s : State) : (s.putObuf j b).olen = s.olen := rfl
@[simp] theorem State.putObuf_chk (j : Nat) (b : Byte) (s : State) : (s.putObuf j b).chk = s.chk := rfl
@[simp] theorem State.putObuf_ibuf (j : Nat) (b : Byte) (s : State) : (s.putObuf j b).ibuf = s.ibuf := rfl
@[simp] theorem State.putObuf_obuf (j : Nat) (b : Byte) (s : State) : (s.putObuf j b).obuf = Memory.write s.obuf j b := rfl
@[simp] theorem State.putObuf_acc (j : Nat) (b : Byte) (s : State) : (s.putObuf j b).acc = s.acc := rfl
@[simp] theorem State.putObuf_idx (j : Nat) (b : Byte) (s : State) : (s.putObuf j b).idx = s.idx := rfl
@[simp] theorem State.putObuf_ph (j : Nat) (b : Byte) (s : State) : (s.putObuf j b).ph = s.ph := rfl
@[simp] theorem State.putObuf_port (j : Nat) (b : Byte) (s : State) : (s.putObuf j b).port = s.port := rfl
@[simp] theorem State.putObuf_replies (j : Nat) (b : Byte) (s : State) : (s.putObuf j b).replies = s.replies := rfl

@[simp] theorem State.advance_cfg (s : State) : (s.advance).cfg = s.cfg := rfl
@[simp] theorem State.advance_status (s : State) : (s.advance).status = s.status := rfl
@[simp] theorem State.advance_kin (s : State) : (s.advance).kin = s.kin := rfl
@[simp] theorem State.advance_kout (s : State) : (s.advance).kout = s.kout := rfl
@[simp] theorem State.advance_ilen (s : State) : (s.advance).ilen = s.ilen := rfl
@[simp] theorem State.advance_olen (s : State) : (s.advance).olen = s.olen := rfl
@[simp] theorem State.advance_chk (s : State) : (s.advance).chk = s.chk := rfl
@[simp] theorem State.advance_ibuf (s : State) : (s.advance).ibuf = s.ibuf := rfl
@[simp] theorem State.advance_obuf (s : State) : (s.advance).obuf = s.obuf := rfl
@[simp] theorem State.advance_acc (s : State) : (s.advance).acc = s.acc := rfl
@[simp] theorem State.advance_idx (s : State) : (s.advance).idx = s.idx + 1 := rfl
@[simp] theorem State.advance_ph (s : State) : (s.advance).ph = s.ph := rfl
@[simp] theorem State.advance_port (s : State) : (s.advance).port = s.port := rfl
@[simp] theorem State.advance_replies (s : State) : (s.advance).replies = s.replies := rfl

@[simp] theorem State.start_cfg (s : State) : (s.start).cfg = s.cfg := rfl
@[simp] theorem State.start_status (s : State) : (s.start).status = s.status := rfl
@[simp] theorem State.start_kin (s : State) : (s.start).kin = s.kin := rfl
@[simp] theorem State.start_kout (s : State) : (s.start).kout = s.kout := rfl
@[simp] theorem State.start_ilen (s : State) : (s.start).ilen = s.ilen := rfl
@[simp] theorem State.start_olen (s : State) : (s.start).olen = s.olen := rfl
@[simp] theorem State.start_chk (s : State) : (s.start).chk = s.chk := rfl
@[simp] theorem State.start_ibuf (s : State) : (s.start).ibuf = s.ibuf := rfl
@[simp] theorem State.start_obuf (s : State) : (s.start).obuf = s.obuf := rfl
@[simp] theorem State.start_acc (s : State) : (s.start).acc = 0x00 := rfl
@[simp] theorem State.start_idx (s : State) : (s.start).idx = 0 := rfl
@[simp] theorem State.start_ph (s : State) : (s.start).ph = .run := rfl
@[simp] theorem State.start_port (s : State) : (s.start).port = s.port := rfl
@[simp] theorem State.start_replies (s : State) : (s.start).replies = s.replies := rfl

@[simp] theorem State.finish_cfg (k c : Byte) (n : Nat) (s : State) : (s.finish k c n).cfg = s.cfg := rfl
@[simp] theorem State.finish_status (k c : Byte) (n : Nat) (s : State) : (s.finish k c n).status = 0x80 := rfl
@[simp] theorem State.finish_kin (k c : Byte) (n : Nat) (s : State) : (s.finish k c n).kin = s.kin := rfl
@[simp] theorem State.finish_kout (k c : Byte) (n : Nat) (s : State) : (s.finish k c n).kout = k := rfl
@[simp] theorem State.finish_ilen (k c : Byte) (n : Nat) (s : State) : (s.finish k c n).ilen = s.ilen := rfl
@[simp] theorem State.finish_olen (k c : Byte) (n : Nat) (s : State) : (s.finish k c n).olen = BitVec.ofNat 16 n := rfl
@[simp] theorem State.finish_chk (k c : Byte) (n : Nat) (s : State) : (s.finish k c n).chk = c := rfl
@[simp] theorem State.finish_ibuf (k c : Byte) (n : Nat) (s : State) : (s.finish k c n).ibuf = s.ibuf := rfl
@[simp] theorem State.finish_obuf (k c : Byte) (n : Nat) (s : State) : (s.finish k c n).obuf = s.obuf := rfl
@[simp] theorem State.finish_acc (k c : Byte) (n : Nat) (s : State) : (s.finish k c n).acc = s.acc := rfl
@[simp] theorem State.finish_idx (k c : Byte) (n : Nat) (s : State) : (s.finish k c n).idx = s.idx := rfl
@[simp] theorem State.finish_ph (k c : Byte) (n : Nat) (s : State) : (s.finish k c n).ph = .idle := rfl
@[simp] theorem State.finish_port (k c : Byte) (n : Nat) (s : State) : (s.finish k c n).port = s.port := rfl
@[simp] theorem State.finish_replies (k c : Byte) (n : Nat) (s : State) : (s.finish k c n).replies = s.replies := rfl

/-- `n + 1` micro-steps are `n` and then one more: the form an invariant is proved with. -/
theorem State.loop_succ (n : Nat) (micro : State → State) (s : State) :
    State.loop (n + 1) micro s = micro (State.loop n micro s) := by
  induction n generalizing s with
  | zero => rfl
  | succ n ih => exact ih (micro s)

/-- What a micro-step leaves alone, a loop of it leaves alone. -/
theorem State.loop_keeps {α : Type} (f : State → α) (micro : State → State) (h : ∀ s, f (micro s) = f s) (n : Nat)
    (s : State) : f (State.loop n micro s) = f s := by
  induction n generalizing s with
  | zero => rfl
  | succ n ih => exact (ih (micro s)).trans (h s)

/-- What feeding, storing to `OBUF`, advancing and starting leave alone, every loop of the datapath leaves alone. -/
theorem dpAfter_keeps {α : Type} (f : State → α) (hf : ∀ b s, f (State.feed b s) = f s)
    (hp : ∀ j b s, f (State.putObuf j b s) = f s) (ha : ∀ s, f (State.advance s) = f s) (hs : ∀ s, f (State.start s) = f s)
    (i : Instr) (k : Nat) (s : State) : f (dpAfter i k s) = f s := by
  have fold : ∀ t, f (microFold t) = f t := fun t => by rw [microFold, ha, hf]
  have emit : ∀ n t, f (microEmit n t) = f t := fun n t => by simp only [microEmit]; rw [ha, hf, hp]
  have take : ∀ n t, f (microTake n t) = f t := fun n t => by
    simp only [microTake]; rw [ha, hf]; split <;> simp only [hp]
  have up : ∀ t, f (microCopyUp t) = f t := fun t => by rw [microCopyUp, ha, hp]
  have down : ∀ t, f (microCopyDown t) = f t := fun t => by rw [microCopyDown, ha, hp]
  cases i <;> simp only [dpAfter]
  case csum => rw [dpFoldLoop, State.loop_keeps f _ fold, hs]
  case enc => rw [dpEncLoop, State.loop_keeps f _ (emit 1), hf, hp, hs]
  case dec => rw [dpTakeLoop, State.loop_keeps f _ (take 1), ha, hf, hs]
  case ser => rw [dpSerLoop, State.loop_keeps f _ up, hp, hs]
  case des => rw [dpDesLoop, State.loop_keeps f _ down, ha, hs]
  case tx => simp only [dpTxLoop]; rw [State.loop_keeps f _ (emit 2), hf, hp, hf, hp, hs]
  case rx => rw [dpTakeLoop, State.loop_keeps f _ (take 2), ha, hf, hs]

@[simp] theorem State.loop_zero (micro : State → State) (s : State) : State.loop 0 micro s = s := rfl

end Sys2Proof.Machine
end

