-- ==== Sys2Proof/Laws/Memory.lean ====
section
/-! SUPPORT. The laws of a buffer: reading after writing, and that every operation keeps the canonical form and the
bound. -/

namespace Sys2Proof.Machine

theorem Memory.read_write_same (m : Memory) (i : Nat) (v : Byte) : Memory.read (Memory.write m i v) i = some v := by
  induction m with
  | nil => simp [Memory.write, Memory.read]
  | cons cell m ih =>
    obtain ⟨a, b⟩ := cell
    unfold Memory.write
    split
    · simp [Memory.read]
    · split
      · simp [Memory.read]
      · simp [Memory.read, ih, Ne.symm ‹¬i = a›]

theorem Memory.read_write_other (m : Memory) (i j : Nat) (v : Byte) (h : j ≠ i) :
    Memory.read (Memory.write m i v) j = Memory.read m j := by
  induction m with
  | nil => simp [Memory.write, Memory.read, h.symm]
  | cons cell m ih =>
    obtain ⟨a, b⟩ := cell
    unfold Memory.write
    split
    · simp [Memory.read, h.symm]
    · split
      · subst_vars
        simp [Memory.read, h.symm]
      · simp [Memory.read, ih]

theorem Memory.read_write (m : Memory) (i j : Nat) (v : Byte) :
    Memory.read (Memory.write m i v) j = if j = i then some v else Memory.read m j := by
  split
  · subst_vars
    exact Memory.read_write_same m _ v
  · exact Memory.read_write_other m i j v ‹_›

/-- What a buffer holds after a sequence is stored: the sequence at its indexes, the old bytes elsewhere. -/
theorem Memory.read_writeList (m : Memory) (i j : Nat) (bs : List Byte) :
    Memory.read (Memory.writeList m i bs) j =
      if i ≤ j ∧ j < i + bs.length then bs[j - i]? else Memory.read m j := by
  induction bs generalizing m i with
  | nil => simp [Memory.writeList]
  | cons b bs ih =>
    rw [Memory.writeList, ih, Memory.read_write]
    rcases Nat.lt_trichotomy j i with h | h | h
    · rw [if_neg (by simp; omega), if_neg (by omega), if_neg (by simp; omega)]
    · subst h
      rw [if_neg (by simp), if_pos rfl, if_pos (by simp)]
      simp
    · rw [if_neg (show ¬j = i by omega)]
      obtain ⟨d, rfl⟩ : ∃ d, j = i + 1 + d := ⟨j - (i + 1), by omega⟩
      rw [show i + 1 + d - i = d + 1 by omega, show i + 1 + d - (i + 1) = d by omega, List.getElem?_cons_succ]
      by_cases hd : d < bs.length
      · rw [if_pos (by omega), if_pos (by simp; omega)]
      · rw [if_neg (by omega), if_neg (by simp; omega)]

theorem Memory.wf_cons_iff (a : Nat) (b : Byte) (m : Memory) :
    Memory.wf ((a, b) :: m) = true ↔ (∀ c ∈ m.head?, a < c.1) ∧ Memory.wf m = true := by
  cases m with
  | nil => simp [Memory.wf]
  | cons cell m => simp [Memory.wf]

theorem Memory.head_write (m : Memory) (i : Nat) (v : Byte) :
    ∀ c ∈ (Memory.write m i v).head?, c.1 = i ∨ c ∈ m.head? := by
  intro c hc
  cases m with
  | nil =>
    simp only [Memory.write, List.head?_cons, Option.mem_def, Option.some.injEq] at hc
    exact .inl (by rw [← hc])
  | cons cell m =>
    obtain ⟨a, b⟩ := cell
    unfold Memory.write at hc
    split at hc
    · simp at hc; exact .inl (by rw [← hc])
    · split at hc
      · simp at hc; exact .inl (by rw [← hc])
      · simp at hc; exact .inr (by simp [hc])

/-- Storing a byte keeps the canonical form. -/
theorem Memory.write_wf (m : Memory) (i : Nat) (v : Byte) (h : Memory.wf m = true) :
    Memory.wf (Memory.write m i v) = true := by
  induction m with
  | nil => rfl
  | cons cell m ih =>
    obtain ⟨a, b⟩ := cell
    have h' := (Memory.wf_cons_iff a b m).1 h
    unfold Memory.write
    split
    · exact (Memory.wf_cons_iff _ _ _).2 ⟨by simpa using ‹i < a›, h⟩
    · split
      · subst_vars
        exact (Memory.wf_cons_iff _ _ _).2 h'
      · refine (Memory.wf_cons_iff _ _ _).2 ⟨fun c hc => ?_, ih h'.2⟩
        rcases Memory.head_write m i v c hc with hi | hm
        · omega
        · exact h'.1 c hm

/-- Storing a sequence keeps the canonical form. -/
theorem Memory.writeList_wf (m : Memory) (i : Nat) (bs : List Byte) (h : Memory.wf m = true) :
    Memory.wf (Memory.writeList m i bs) = true := by
  induction bs generalizing m i with
  | nil => exact h
  | cons b bs ih => exact ih _ _ (Memory.write_wf m i b h)

theorem Memory.write_below (m : Memory) (i n : Nat) (v : Byte) (h : Memory.below m n = true) (hi : i < n) :
    Memory.below (Memory.write m i v) n = true := by
  induction m with
  | nil => simp [Memory.write, Memory.below, hi]
  | cons cell m ih =>
    obtain ⟨a, b⟩ := cell
    simp only [Memory.below, List.all_cons, Bool.and_eq_true, decide_eq_true_eq] at h ih
    unfold Memory.write
    split
    · simp only [Memory.below, List.all_cons, Bool.and_eq_true, decide_eq_true_eq]
      exact ⟨hi, h⟩
    · split
      · simp only [Memory.below, List.all_cons, Bool.and_eq_true, decide_eq_true_eq]
        exact ⟨hi, h.2⟩
      · simp only [Memory.below, List.all_cons, Bool.and_eq_true, decide_eq_true_eq]
        exact ⟨h.1, ih h.2⟩

theorem Memory.writeList_below (m : Memory) (i n : Nat) (bs : List Byte) (h : Memory.below m n = true)
    (hi : i + bs.length ≤ n) : Memory.below (Memory.writeList m i bs) n = true := by
  induction bs generalizing m i with
  | nil => exact h
  | cons b bs ih =>
    simp only [List.length_cons] at hi
    exact ih _ _ (Memory.write_below m i n b h (by omega)) (by omega)

/-- Reading a sequence gives exactly the bytes at its indexes. -/
theorem Memory.readList_eq_some (m : Memory) (i n : Nat) (bs : List Byte) :
    Memory.readList m i n = some bs ↔ bs.length = n ∧ ∀ k, k < n → Memory.read m (i + k) = bs[k]? := by
  induction n generalizing i bs with
  | zero => cases bs <;> simp [Memory.readList]
  | succ n ih =>
    rw [Memory.readList]
    constructor
    · intro h
      split at h
      · obtain rfl := Option.some.inj h
        obtain ⟨hl, hk⟩ := (ih _ _).1 ‹_›
        refine ⟨by simp [hl], fun k hk' => ?_⟩
        cases k with
        | zero => simpa using ‹Memory.read m i = _›
        | succ k =>
          rw [List.getElem?_cons_succ, ← hk k (by omega)]
          congr 1
          omega
      · exact absurd h (by simp)
    · rintro ⟨hl, hk⟩
      cases bs with
      | nil => simp at hl
      | cons b bs =>
        have h0 : Memory.read m i = some b := by simpa using hk 0 (by omega)
        have h1 : Memory.readList m (i + 1) n = some bs := by
          refine (ih _ _).2 ⟨by simpa using hl, fun k hk' => ?_⟩
          have := hk (k + 1) (by omega)
          rw [List.getElem?_cons_succ] at this
          rw [← this]
          congr 1
          omega
        rw [h0, h1]

/-- Reading a sequence fails exactly when one of its bytes holds no value. -/
theorem Memory.readList_eq_none (m : Memory) (i n : Nat) :
    Memory.readList m i n = none ↔ ∃ k, k < n ∧ Memory.read m (i + k) = none := by
  induction n generalizing i with
  | zero => simp [Memory.readList]
  | succ n ih =>
    rw [Memory.readList]
    constructor
    · intro h
      cases h0 : Memory.read m i with
      | none => exact ⟨0, by omega, by simpa using h0⟩
      | some b =>
        cases h1 : Memory.readList m (i + 1) n with
        | none =>
          obtain ⟨k, hk, hr⟩ := (ih _).1 h1
          exact ⟨k + 1, by omega, by rw [← hr]; congr 1; omega⟩
        | some bs => simp [h0, h1] at h
    · rintro ⟨k, hk, hr⟩
      cases k with
      | zero =>
        rw [show i + 0 = i from rfl] at hr
        simp [hr]
      | succ k =>
        have : Memory.readList m (i + 1) n = none :=
          (ih _).2 ⟨k, by omega, by rw [← hr]; congr 1; omega⟩
        simp [this]

/-- Nothing is stored at or above the bound. -/
theorem Memory.read_of_below (m : Memory) (n j : Nat) (h : Memory.below m n = true) (hj : n ≤ j) :
    Memory.read m j = none := by
  induction m with
  | nil => rfl
  | cons cell m ih =>
    obtain ⟨a, b⟩ := cell
    simp only [Memory.below, List.all_cons, Bool.and_eq_true, decide_eq_true_eq] at h ih
    simp only [Memory.read]
    rw [if_neg (by omega), ih h.2]

end Sys2Proof.Machine
end

