-- ==== Sys2Proof/Laws/State.lean ====
section
/-! SUPPORT. What each named update of the state does to each field, so that no proof unfolds a record update. -/

namespace Sys2Proof.Machine

@[simp] theorem State.setKin_cfg (v : PortWord) (s : State) : (s.setKin v).cfg = s.cfg := rfl
@[simp] theorem State.setKin_status (v : PortWord) (s : State) : (s.setKin v).status = s.status := rfl
@[simp] theorem State.setKin_kin (v : PortWord) (s : State) : (s.setKin v).kin = v.setWidth 8 := rfl
@[simp] theorem State.setKin_kout (v : PortWord) (s : State) : (s.setKin v).kout = s.kout := rfl
@[simp] theorem State.setKin_ilen (v : PortWord) (s : State) : (s.setKin v).ilen = s.ilen := rfl
@[simp] theorem State.setKin_olen (v : PortWord) (s : State) : (s.setKin v).olen = s.olen := rfl
@[simp] theorem State.setKin_chk (v : PortWord) (s : State) : (s.setKin v).chk = s.chk := rfl
@[simp] theorem State.setKin_ibuf (v : PortWord) (s : State) : (s.setKin v).ibuf = s.ibuf := rfl
@[simp] theorem State.setKin_obuf (v : PortWord) (s : State) : (s.setKin v).obuf = s.obuf := rfl
@[simp] theorem State.setKin_acc (v : PortWord) (s : State) : (s.setKin v).acc = s.acc := rfl
@[simp] theorem State.setKin_idx (v : PortWord) (s : State) : (s.setKin v).idx = s.idx := rfl
@[simp] theorem State.setKin_ph (v : PortWord) (s : State) : (s.setKin v).ph = s.ph := rfl
@[simp] theorem State.setKin_port (v : PortWord) (s : State) : (s.setKin v).port = s.port := rfl
@[simp] theorem State.setKin_replies (v : PortWord) (s : State) : (s.setKin v).replies = s.replies := rfl

@[simp] theorem State.setIlen_cfg (v : PortWord) (s : State) : (s.setIlen v).cfg = s.cfg := rfl
@[simp] theorem State.setIlen_status (v : PortWord) (s : State) : (s.setIlen v).status = s.status := rfl
@[simp] theorem State.setIlen_kin (v : PortWord) (s : State) : (s.setIlen v).kin = s.kin := rfl
@[simp] theorem State.setIlen_kout (v : PortWord) (s : State) : (s.setIlen v).kout = s.kout := rfl
@[simp] theorem State.setIlen_ilen (v : PortWord) (s : State) : (s.setIlen v).ilen = (v.setWidth s.cfg.lw).setWidth 16 := rfl
@[simp] theorem State.setIlen_olen (v : PortWord) (s : State) : (s.setIlen v).olen = s.olen := rfl
@[simp] theorem State.setIlen_chk (v : PortWord) (s : State) : (s.setIlen v).chk = s.chk := rfl
@[simp] theorem State.setIlen_ibuf (v : PortWord) (s : State) : (s.setIlen v).ibuf = s.ibuf := rfl
@[simp] theorem State.setIlen_obuf (v : PortWord) (s : State) : (s.setIlen v).obuf = s.obuf := rfl
@[simp] theorem State.setIlen_acc (v : PortWord) (s : State) : (s.setIlen v).acc = s.acc := rfl
@[simp] theorem State.setIlen_idx (v : PortWord) (s : State) : (s.setIlen v).idx = s.idx := rfl
@[simp] theorem State.setIlen_ph (v : PortWord) (s : State) : (s.setIlen v).ph = s.ph := rfl
@[simp] theorem State.setIlen_port (v : PortWord) (s : State) : (s.setIlen v).port = s.port := rfl
@[simp] theorem State.setIlen_replies (v : PortWord) (s : State) : (s.setIlen v).replies = s.replies := rfl

@[simp] theorem State.setIbuf_cfg (i : Nat) (v : PortWord) (s : State) : (s.setIbuf i v).cfg = s.cfg := rfl
@[simp] theorem State.setIbuf_status (i : Nat) (v : PortWord) (s : State) : (s.setIbuf i v).status = s.status := rfl
@[simp] theorem State.setIbuf_kin (i : Nat) (v : PortWord) (s : State) : (s.setIbuf i v).kin = s.kin := rfl
@[simp] theorem State.setIbuf_kout (i : Nat) (v : PortWord) (s : State) : (s.setIbuf i v).kout = s.kout := rfl
@[simp] theorem State.setIbuf_ilen (i : Nat) (v : PortWord) (s : State) : (s.setIbuf i v).ilen = s.ilen := rfl
@[simp] theorem State.setIbuf_olen (i : Nat) (v : PortWord) (s : State) : (s.setIbuf i v).olen = s.olen := rfl
@[simp] theorem State.setIbuf_chk (i : Nat) (v : PortWord) (s : State) : (s.setIbuf i v).chk = s.chk := rfl
@[simp] theorem State.setIbuf_ibuf (i : Nat) (v : PortWord) (s : State) : (s.setIbuf i v).ibuf = Memory.write s.ibuf i (v.setWidth 8) := rfl
@[simp] theorem State.setIbuf_obuf (i : Nat) (v : PortWord) (s : State) : (s.setIbuf i v).obuf = s.obuf := rfl
@[simp] theorem State.setIbuf_acc (i : Nat) (v : PortWord) (s : State) : (s.setIbuf i v).acc = s.acc := rfl
@[simp] theorem State.setIbuf_idx (i : Nat) (v : PortWord) (s : State) : (s.setIbuf i v).idx = s.idx := rfl
@[simp] theorem State.setIbuf_ph (i : Nat) (v : PortWord) (s : State) : (s.setIbuf i v).ph = s.ph := rfl
@[simp] theorem State.setIbuf_port (i : Nat) (v : PortWord) (s : State) : (s.setIbuf i v).port = s.port := rfl
@[simp] theorem State.setIbuf_replies (i : Nat) (v : PortWord) (s : State) : (s.setIbuf i v).replies = s.replies := rfl

@[simp] theorem State.load_cfg (bytes : List Byte) (s : State) : (s.load bytes).cfg = s.cfg := rfl
@[simp] theorem State.load_status (bytes : List Byte) (s : State) : (s.load bytes).status = s.status := rfl
@[simp] theorem State.load_kin (bytes : List Byte) (s : State) : (s.load bytes).kin = s.kin := rfl
@[simp] theorem State.load_kout (bytes : List Byte) (s : State) : (s.load bytes).kout = s.kout := rfl
@[simp] theorem State.load_ilen (bytes : List Byte) (s : State) : (s.load bytes).ilen = ((BitVec.ofNat 16 bytes.length).setWidth s.cfg.lw).setWidth 16 := rfl
@[simp] theorem State.load_olen (bytes : List Byte) (s : State) : (s.load bytes).olen = s.olen := rfl
@[simp] theorem State.load_chk (bytes : List Byte) (s : State) : (s.load bytes).chk = s.chk := rfl
@[simp] theorem State.load_ibuf (bytes : List Byte) (s : State) : (s.load bytes).ibuf = Memory.writeList s.ibuf 0 bytes := rfl
@[simp] theorem State.load_obuf (bytes : List Byte) (s : State) : (s.load bytes).obuf = s.obuf := rfl
@[simp] theorem State.load_acc (bytes : List Byte) (s : State) : (s.load bytes).acc = s.acc := rfl
@[simp] theorem State.load_idx (bytes : List Byte) (s : State) : (s.load bytes).idx = s.idx := rfl
@[simp] theorem State.load_ph (bytes : List Byte) (s : State) : (s.load bytes).ph = s.ph := rfl
@[simp] theorem State.load_port (bytes : List Byte) (s : State) : (s.load bytes).port = s.port := rfl
@[simp] theorem State.load_replies (bytes : List Byte) (s : State) : (s.load bytes).replies = s.replies := rfl

@[simp] theorem State.ran_cfg (a : Byte) (k : Nat) (s : State) : (s.ran a k).cfg = s.cfg := rfl
@[simp] theorem State.ran_status (a : Byte) (k : Nat) (s : State) : (s.ran a k).status = s.status := rfl
@[simp] theorem State.ran_kin (a : Byte) (k : Nat) (s : State) : (s.ran a k).kin = s.kin := rfl
@[simp] theorem State.ran_kout (a : Byte) (k : Nat) (s : State) : (s.ran a k).kout = s.kout := rfl
@[simp] theorem State.ran_ilen (a : Byte) (k : Nat) (s : State) : (s.ran a k).ilen = s.ilen := rfl
@[simp] theorem State.ran_olen (a : Byte) (k : Nat) (s : State) : (s.ran a k).olen = s.olen := rfl
@[simp] theorem State.ran_chk (a : Byte) (k : Nat) (s : State) : (s.ran a k).chk = s.chk := rfl
@[simp] theorem State.ran_ibuf (a : Byte) (k : Nat) (s : State) : (s.ran a k).ibuf = s.ibuf := rfl
@[simp] theorem State.ran_obuf (a : Byte) (k : Nat) (s : State) : (s.ran a k).obuf = s.obuf := rfl
@[simp] theorem State.ran_acc (a : Byte) (k : Nat) (s : State) : (s.ran a k).acc = a := rfl
@[simp] theorem State.ran_idx (a : Byte) (k : Nat) (s : State) : (s.ran a k).idx = k := rfl
@[simp] theorem State.ran_ph (a : Byte) (k : Nat) (s : State) : (s.ran a k).ph = s.ph := rfl
@[simp] theorem State.ran_port (a : Byte) (k : Nat) (s : State) : (s.ran a k).port = s.port := rfl
@[simp] theorem State.ran_replies (a : Byte) (k : Nat) (s : State) : (s.ran a k).replies = s.replies := rfl

@[simp] theorem State.complete_cfg (code : BitVec 4) (kout chk : Byte) (out : List Byte) (s : State) : (s.complete code kout chk out).cfg = s.cfg := rfl
@[simp] theorem State.complete_status (code : BitVec 4) (kout chk : Byte) (out : List Byte) (s : State) : (s.complete code kout chk out).status = statusWord code := rfl
@[simp] theorem State.complete_kin (code : BitVec 4) (kout chk : Byte) (out : List Byte) (s : State) : (s.complete code kout chk out).kin = s.kin := rfl
@[simp] theorem State.complete_kout (code : BitVec 4) (kout chk : Byte) (out : List Byte) (s : State) : (s.complete code kout chk out).kout = kout := rfl
@[simp] theorem State.complete_ilen (code : BitVec 4) (kout chk : Byte) (out : List Byte) (s : State) : (s.complete code kout chk out).ilen = s.ilen := rfl
@[simp] theorem State.complete_olen (code : BitVec 4) (kout chk : Byte) (out : List Byte) (s : State) : (s.complete code kout chk out).olen = BitVec.ofNat 16 out.length := rfl
@[simp] theorem State.complete_chk (code : BitVec 4) (kout chk : Byte) (out : List Byte) (s : State) : (s.complete code kout chk out).chk = chk := rfl
@[simp] theorem State.complete_ibuf (code : BitVec 4) (kout chk : Byte) (out : List Byte) (s : State) : (s.complete code kout chk out).ibuf = s.ibuf := rfl
@[simp] theorem State.complete_obuf (code : BitVec 4) (kout chk : Byte) (out : List Byte) (s : State) : (s.complete code kout chk out).obuf = Memory.writeList s.obuf 0 out := rfl
@[simp] theorem State.complete_acc (code : BitVec 4) (kout chk : Byte) (out : List Byte) (s : State) : (s.complete code kout chk out).acc = s.acc := rfl
@[simp] theorem State.complete_idx (code : BitVec 4) (kout chk : Byte) (out : List Byte) (s : State) : (s.complete code kout chk out).idx = s.idx := rfl
@[simp] theorem State.complete_ph (code : BitVec 4) (kout chk : Byte) (out : List Byte) (s : State) : (s.complete code kout chk out).ph = .idle := rfl
@[simp] theorem State.complete_port (code : BitVec 4) (kout chk : Byte) (out : List Byte) (s : State) : (s.complete code kout chk out).port = s.port := rfl
@[simp] theorem State.complete_replies (code : BitVec 4) (kout chk : Byte) (out : List Byte) (s : State) : (s.complete code kout chk out).replies = s.replies := rfl

@[simp] theorem State.raise_cfg (e : FrameError) (chk : Byte) (s : State) : (s.raise e chk).cfg = s.cfg := rfl
@[simp] theorem State.raise_status (e : FrameError) (chk : Byte) (s : State) : (s.raise e chk).status = statusWord e.code := rfl
@[simp] theorem State.raise_kin (e : FrameError) (chk : Byte) (s : State) : (s.raise e chk).kin = s.kin := rfl
@[simp] theorem State.raise_kout (e : FrameError) (chk : Byte) (s : State) : (s.raise e chk).kout = 0xFF := rfl
@[simp] theorem State.raise_ilen (e : FrameError) (chk : Byte) (s : State) : (s.raise e chk).ilen = s.ilen := rfl
@[simp] theorem State.raise_olen (e : FrameError) (chk : Byte) (s : State) : (s.raise e chk).olen = 0 := rfl
@[simp] theorem State.raise_chk (e : FrameError) (chk : Byte) (s : State) : (s.raise e chk).chk = chk := rfl
@[simp] theorem State.raise_ibuf (e : FrameError) (chk : Byte) (s : State) : (s.raise e chk).ibuf = s.ibuf := rfl
@[simp] theorem State.raise_obuf (e : FrameError) (chk : Byte) (s : State) : (s.raise e chk).obuf = s.obuf := rfl
@[simp] theorem State.raise_acc (e : FrameError) (chk : Byte) (s : State) : (s.raise e chk).acc = s.acc := rfl
@[simp] theorem State.raise_idx (e : FrameError) (chk : Byte) (s : State) : (s.raise e chk).idx = s.idx := rfl
@[simp] theorem State.raise_ph (e : FrameError) (chk : Byte) (s : State) : (s.raise e chk).ph = .idle := rfl
@[simp] theorem State.raise_port (e : FrameError) (chk : Byte) (s : State) : (s.raise e chk).port = s.port := rfl
@[simp] theorem State.raise_replies (e : FrameError) (chk : Byte) (s : State) : (s.raise e chk).replies = s.replies := rfl

@[simp] theorem State.applyReset_cfg (s : State) : (s.applyReset).cfg = s.cfg := rfl
@[simp] theorem State.applyReset_status (s : State) : (s.applyReset).status = 0x00 := rfl
@[simp] theorem State.applyReset_kin (s : State) : (s.applyReset).kin = 0x00 := rfl
@[simp] theorem State.applyReset_kout (s : State) : (s.applyReset).kout = 0xFF := rfl
@[simp] theorem State.applyReset_ilen (s : State) : (s.applyReset).ilen = 0 := rfl
@[simp] theorem State.applyReset_olen (s : State) : (s.applyReset).olen = 0 := rfl
@[simp] theorem State.applyReset_chk (s : State) : (s.applyReset).chk = 0x00 := rfl
@[simp] theorem State.applyReset_ibuf (s : State) : (s.applyReset).ibuf = [] := rfl
@[simp] theorem State.applyReset_obuf (s : State) : (s.applyReset).obuf = s.obuf := rfl
@[simp] theorem State.applyReset_acc (s : State) : (s.applyReset).acc = 0 := rfl
@[simp] theorem State.applyReset_idx (s : State) : (s.applyReset).idx = 0 := rfl
@[simp] theorem State.applyReset_ph (s : State) : (s.applyReset).ph = .idle := rfl
@[simp] theorem State.applyReset_port (s : State) : (s.applyReset).port = s.port := rfl
@[simp] theorem State.applyReset_replies (s : State) : (s.applyReset).replies = s.replies := rfl

@[simp] theorem State.command_cfg (v : PortWord) (s : State) : (s.command v).cfg = s.cfg := rfl
@[simp] theorem State.command_status (v : PortWord) (s : State) : (s.command v).status = s.status := rfl
@[simp] theorem State.command_kin (v : PortWord) (s : State) : (s.command v).kin = s.kin := rfl
@[simp] theorem State.command_kout (v : PortWord) (s : State) : (s.command v).kout = s.kout := rfl
@[simp] theorem State.command_ilen (v : PortWord) (s : State) : (s.command v).ilen = s.ilen := rfl
@[simp] theorem State.command_olen (v : PortWord) (s : State) : (s.command v).olen = s.olen := rfl
@[simp] theorem State.command_chk (v : PortWord) (s : State) : (s.command v).chk = s.chk := rfl
@[simp] theorem State.command_ibuf (v : PortWord) (s : State) : (s.command v).ibuf = s.ibuf := rfl
@[simp] theorem State.command_obuf (v : PortWord) (s : State) : (s.command v).obuf = s.obuf := rfl
@[simp] theorem State.command_acc (v : PortWord) (s : State) : (s.command v).acc = s.acc := rfl
@[simp] theorem State.command_idx (v : PortWord) (s : State) : (s.command v).idx = s.idx := rfl
@[simp] theorem State.command_ph (v : PortWord) (s : State) : (s.command v).ph = s.ph := rfl
@[simp] theorem State.command_port (v : PortWord) (s : State) : (s.command v).port = .write 0 v :: s.port := rfl
@[simp] theorem State.command_replies (v : PortWord) (s : State) : (s.command v).replies = s.replies := rfl

@[simp] theorem State.resetWith_cfg (c : Config) : (State.resetWith c).cfg = c := rfl

end Sys2Proof.Machine
end

