-- ==== Sys2Proof/Laws/Ops.lean ====
section
/-! SUPPORT. One lemma per shared operation: what the input of a command is, what a completion leaves the host to read. -/

namespace Sys2Proof.Machine

/-- The input sequence is `bytes` exactly when the buffer holds them at their indexes and there are `ILEN` of them. -/
theorem State.input_eq_some (s : State) (bytes : List Byte) : s.input = some bytes ↔ s.inputIs bytes := by
  simp [State.input, Memory.readList_eq_some, State.inputIs]

/-- There is no input sequence exactly when `ILEN` covers a byte that holds no value. -/
theorem State.input_eq_none (s : State) : s.input = none ↔ ¬ s.inputWritten := by
  simp only [State.input, Memory.readList_eq_none, State.inputWritten, Nat.zero_add]
  constructor
  · rintro ⟨k, hk, hr⟩ h
    simpa [hr] using h k hk
  · intro h
    push Not at h
    obtain ⟨k, hk, hr⟩ := h
    exact ⟨k, hk, by simpa using hr⟩

/-- Everything a command over its input can answer. -/
theorem withInput_cases (s : State) (f : List Byte → State) :
    (∃ bytes, s.inputIs bytes ∧ withInput s f = .next (f bytes)) ∨
      (¬ s.inputWritten ∧ withInput s f = .refused .inputNotWritten) := by
  unfold withInput
  cases h : s.input with
  | some bytes => exact .inl ⟨bytes, (s.input_eq_some bytes).1 h, rfl⟩
  | none => exact .inr ⟨s.input_eq_none.1 h, rfl⟩

/-- A command whose input is `bytes` runs on them. -/
theorem withInput_of_inputIs (s : State) (f : List Byte → State) (bytes : List Byte) (h : s.inputIs bytes) :
    withInput s f = .next (f bytes) := by
  rw [withInput, (s.input_eq_some bytes).2 h]

/-- A command whose input is not all written is refused. -/
theorem withInput_of_not_written (s : State) (f : List Byte → State) (h : ¬ s.inputWritten) :
    withInput s f = .refused .inputNotWritten := by
  rw [withInput, s.input_eq_none.2 h]

theorem State.obufRead_of_ge (s : State) (j : Nat) (h : s.olen.toNat ≤ j) : s.obufRead j = 0x00 := by
  rw [State.obufRead, if_neg (by omega)]

/-- `OLEN` after a completion is the length of the output sequence. -/
theorem State.complete_olen_toNat (code : BitVec 4) (kout chk : Byte) (out : List Byte) (s : State)
    (h : out.length < 2 ^ 16) : (s.complete code kout chk out).olen.toNat = out.length := by
  rw [State.complete_olen, BitVec.toNat_ofNat, Nat.mod_eq_of_lt h]

/-- What the host reads of the output buffer after a completion: the output sequence, then zeros (10_state.md R21). -/
theorem State.complete_obufRead (code : BitVec 4) (kout chk : Byte) (out : List Byte) (s : State) (j : Nat)
    (h : out.length < 2 ^ 16) : (s.complete code kout chk out).obufRead j = out.getD j 0x00 := by
  have hl := State.complete_olen_toNat code kout chk out s h
  by_cases hj : j < out.length
  · rw [State.obufRead, if_pos (by omega), State.obufCell, State.complete_obuf, Memory.read_writeList,
      if_pos (by omega)]
    simp [hj]
  · rw [State.obufRead_of_ge _ _ (by omega)]
    exact (List.getD_eq_default _ _ (Nat.le_of_not_lt hj)).symm

/-- The output sequence after a completion (00_scope.md R9). -/
theorem State.complete_shows (code : BitVec 4) (kout chk : Byte) (out : List Byte) (s : State)
    (h : out.length < 2 ^ 16) : (s.complete code kout chk out).shows (statusWord code) kout chk out := by
  have hl := State.complete_olen_toNat code kout chk out s h
  refine ⟨rfl, rfl, rfl, hl, ?_, fun j hj => State.obufRead_of_ge _ _ (by omega)⟩
  rw [State.output, hl]
  refine List.ext_getElem (by simp) fun j h1 h2 => ?_
  simp [State.complete_obufRead code kout chk out s _ h, h2]

/-- What an error leaves the host to read (60_exceptions.md R207). -/
theorem State.raise_shows (e : FrameError) (chk : Byte) (s : State) :
    (s.raise e chk).shows (statusWord e.code) 0xFF chk [] :=
  State.complete_shows _ _ _ _ _ (by decide)

theorem State.complete_sameInputs (code : BitVec 4) (kout chk : Byte) (out : List Byte) (s : State) :
    s.sameInputs (s.complete code kout chk out) := ⟨rfl, rfl, rfl, rfl, rfl, rfl⟩

theorem State.raise_sameInputs (e : FrameError) (chk : Byte) (s : State) : s.sameInputs (s.raise e chk) :=
  ⟨rfl, rfl, rfl, rfl, rfl, rfl⟩

theorem State.ran_sameInputs (a : Byte) (k : Nat) (s : State) : s.sameInputs (s.ran a k) :=
  ⟨rfl, rfl, rfl, rfl, rfl, rfl⟩

/-- Reset keeps the canonical form and the bound of both buffers. -/
theorem State.applyReset_buffers (s : State) (n : Nat) (h : Memory.wf s.obuf = true)
    (hb : Memory.below s.obuf n = true) :
    Memory.wf s.applyReset.ibuf = true ∧ Memory.wf s.applyReset.obuf = true
      ∧ Memory.below s.applyReset.obuf n = true := ⟨rfl, h, hb⟩

/-- The reset state's buffers have the canonical form. -/
theorem State.reset_buffers_wf : Memory.wf State.reset.ibuf = true ∧ Memory.wf State.reset.obuf = true := ⟨rfl, rfl⟩

end Sys2Proof.Machine
end

