-- ==== Sys2Proof/Laws/PerInstr.lean ====
section
/-! SUPPORT. Per-instruction families: one statement for every constructor of Instr, one lemma each. -/

namespace Sys2Proof.Laws

/-- The bytes of a well-formed instruction are at least one and fit the input buffer (00_scope.md R7, 30_encoding.md R77). -/
def EncodeFits.Statement (i : Instr) : Prop :=
  ∀ c : Config, c.wf → i.wellFormed c = true → 1 ≤ (encode i).length ∧ (encode i).length ≤ c.nmax

/-- A build's input buffer has at least seven bytes, and room for the frame of every kind. -/
theorem Config.wf_room (c : Config) (h : c.wf) : 7 ≤ c.nmax ∧ ∀ k : Kind, c.arglenOf k + 3 ≤ c.nmax := by
  refine ⟨?_, fun k => ?_⟩
  · have := Nat.pow_le_pow_right (n := 2) (by decide) h.1
    show 7 ≤ 2 ^ c.lw - 1
    omega
  · obtain ⟨-, -, -, -, -, -, -, -, h1, h2, h3, h4, h5, h6, h7, -⟩ := h
    cases k <;> assumption

/-- One byte fits. -/
theorem EncodeFits.one (c : Config) (h : c.wf) (b : Byte) : 1 ≤ [b].length ∧ [b].length ≤ c.nmax :=
  ⟨Nat.le_refl 1, Nat.le_trans (by decide : 1 ≤ 7) (Config.wf_room c h).1⟩

/-- The payload of a kind fits. -/
theorem EncodeFits.kind (c : Config) (h : c.wf) (k : Kind) (args : List Byte) (hw : argsFit c k args = true) (b : Byte) :
    1 ≤ (b :: args).length ∧ (b :: args).length ≤ c.nmax := by
  have hr := (Config.wf_room c h).2 k
  have hl : args.length = c.arglenOf k := by simpa [argsFit] using hw
  simp only [List.length_cons]
  omega

/-- A byte and what follows it fit. -/
theorem EncodeFits.free (c : Config) (rest : List Byte) (hw : fitsInput c (rest.length + 1) = true) (b : Byte) :
    1 ≤ (b :: rest).length ∧ (b :: rest).length ≤ c.nmax :=
  ⟨Nat.succ_pos _, of_decide_eq_true hw⟩

theorem EncodeFits.nop : EncodeFits.Statement .nop := fun c h _ => EncodeFits.one c h _
theorem EncodeFits.csum : EncodeFits.Statement .csum := fun c h _ => EncodeFits.one c h _
theorem EncodeFits.enc : EncodeFits.Statement .enc := fun c h _ => EncodeFits.one c h _
theorem EncodeFits.dec : EncodeFits.Statement .dec := fun c h _ => EncodeFits.one c h _
theorem EncodeFits.ser : EncodeFits.Statement .ser := fun c h _ => EncodeFits.one c h _
theorem EncodeFits.des : EncodeFits.Statement .des := fun c h _ => EncodeFits.one c h _
theorem EncodeFits.tx : EncodeFits.Statement .tx := fun c h _ => EncodeFits.one c h _
theorem EncodeFits.rx : EncodeFits.Statement .rx := fun c h _ => EncodeFits.one c h _
theorem EncodeFits.stOK : EncodeFits.Statement .stOK := fun c h _ => EncodeFits.one c h _
theorem EncodeFits.stTooShort : EncodeFits.Statement .stTooShort := fun c h _ => EncodeFits.one c h _
theorem EncodeFits.stBadDelimiter : EncodeFits.Statement .stBadDelimiter := fun c h _ => EncodeFits.one c h _
theorem EncodeFits.stBadChecksum : EncodeFits.Statement .stBadChecksum := fun c h _ => EncodeFits.one c h _
theorem EncodeFits.stUnknownFrameId : EncodeFits.Statement .stUnknownFrameId := fun c h _ => EncodeFits.one c h _
theorem EncodeFits.stTruncatedPayload : EncodeFits.Statement .stTruncatedPayload := fun c h _ => EncodeFits.one c h _
theorem EncodeFits.stTrailingBytes : EncodeFits.Statement .stTrailingBytes := fun c h _ => EncodeFits.one c h _
theorem EncodeFits.ping (args : List Byte) : EncodeFits.Statement (.ping args) :=
  fun c h hw => EncodeFits.kind c h .ping args hw _
theorem EncodeFits.assignID (args : List Byte) : EncodeFits.Statement (.assignID args) :=
  fun c h hw => EncodeFits.kind c h .assignID args hw _
theorem EncodeFits.requestData (args : List Byte) : EncodeFits.Statement (.requestData args) :=
  fun c h hw => EncodeFits.kind c h .requestData args hw _
theorem EncodeFits.setStandby (args : List Byte) : EncodeFits.Statement (.setStandby args) :=
  fun c h hw => EncodeFits.kind c h .setStandby args hw _
theorem EncodeFits.setDischarge (args : List Byte) : EncodeFits.Statement (.setDischarge args) :=
  fun c h hw => EncodeFits.kind c h .setDischarge args hw _
theorem EncodeFits.setCharge (args : List Byte) : EncodeFits.Statement (.setCharge args) :=
  fun c h hw => EncodeFits.kind c h .setCharge args hw _
theorem EncodeFits.announceCompletion (args : List Byte) : EncodeFits.Statement (.announceCompletion args) :=
  fun c h hw => EncodeFits.kind c h .announceCompletion args hw _
theorem EncodeFits.reserved03 (rest : List Byte) : EncodeFits.Statement (.reserved03 rest) :=
  fun c _ hw => EncodeFits.free c rest hw _
theorem EncodeFits.unassigned08 (x : BitVec 3) (rest : List Byte) : EncodeFits.Statement (.unassigned08 x rest) :=
  fun c _ hw => EncodeFits.free c rest hw _
theorem EncodeFits.unassigned10 (x : BitVec 4) (rest : List Byte) : EncodeFits.Statement (.unassigned10 x rest) :=
  fun c _ hw => EncodeFits.free c rest hw _
theorem EncodeFits.unassigned20 (x : BitVec 5) (rest : List Byte) : EncodeFits.Statement (.unassigned20 x rest) :=
  fun c _ hw => EncodeFits.free c rest hw _
theorem EncodeFits.unassigned40 (x : BitVec 6) (rest : List Byte) : EncodeFits.Statement (.unassigned40 x rest) :=
  fun c _ hw => EncodeFits.free c rest hw _
theorem EncodeFits.unassigned80 (x : BitVec 7) (rest : List Byte) : EncodeFits.Statement (.unassigned80 x rest) :=
  fun c _ hw => EncodeFits.free c rest hw _
theorem EncodeFits.delim (payload : List Byte) (checksum : Byte) : EncodeFits.Statement (.delim payload checksum) := by
  intro c _ hw
  have hl : payload.length + 2 ≤ c.nmax := of_decide_eq_true hw
  simp only [encode, List.length_cons, List.length_append, List.length_nil]
  omega

end Sys2Proof.Laws
end

