-- ==== Sys2Proof/Laws/Script.lean ====
section
/-! SUPPORT. Scripts run one part after another, and what a host reads from the values a script returned. -/

namespace Sys2Proof.Machine

/-- Events that lead to `t`, followed by more: the rest runs from `t`. -/
theorem State.events_append (xs ys : List HostEvent) (s t : State) (h : State.events xs s = .next t) :
    State.events (xs ++ ys) s = State.events ys t := by
  induction xs generalizing s with
  | nil => cases h; rfl
  | cons e es ih =>
    simp only [List.cons_append, State.events] at h ⊢
    cases he : State.hostEvent e s with
    | next u => rw [he] at h; exact ih u h
    | fault r => rw [he] at h; cases h
    | refused r => rw [he] at h; cases h

/-- A script that leads to `t` in the same build, followed by more: the rest runs from `t`. -/
theorem State.script_append (xs ys : List Line) (s t : State) (h : s.script xs = .next t) (hc : t.cfg = s.cfg) :
    s.script (xs ++ ys) = t.script ys := by
  rw [State.script, List.map_append, State.events_append _ _ _ _ h, State.script, hc]

/-- A line that gives a next state, followed by more. -/
theorem State.script_cons (l : Line) (ls : List Line) (s t : State)
    (h : State.hostEvent (l.event s.cfg) s = .next t) (hc : t.cfg = s.cfg) : s.script (l :: ls) = t.script ls :=
  State.script_append [l] ls s t (by simp [State.script, State.events, h]) hc

@[simp] theorem State.script_nil (s : State) : s.script [] = .next s := rfl

/-- What `DUMP` read is the output sequence when the number of bytes is the `OLEN` read first. -/
theorem readDump_cons (len : PortWord) (out : List PortWord) (h : len.toNat = out.length) :
    readDump (len :: out) = some (out.map fun v => v.setWidth 8) := if_pos h

/-- The bytes of an output sequence come back from the values the port gives for them. -/
theorem readDump_widened (len : PortWord) (out : List Byte) (h : len.toNat = out.length) :
    readDump (len :: out.map fun b => b.setWidth 16) = some out := by
  rw [readDump_cons _ _ (by simpa using h), List.map_map]
  congr 1
  exact List.map_id'' (fun b => by simp [BitVec.setWidth_setWidth_of_le]) out

/-- A call that succeeded. -/
theorem readCall_ok (dump : List PortWord) (out : List Byte) (h : readDump dump = some out) :
    readCall (0x80 :: dump) = some (.ok out) := by simp [readCall, h]

/-- A call that failed: the `STATUS` of each error names it. -/
theorem readCall_error (e : FrameError) (dump : List PortWord) (out : List Byte) (h : readDump dump = some out) :
    readCall ((statusWord e.code).setWidth 16 :: dump) = some (.error e) := by
  cases e <;> simp [readCall, h, readError, statusWord, FrameError.code, FrameError.ofCode]

end Sys2Proof.Machine
end

