-- ==== Sys2Proof/Tests/Slice0.lean ====
section
/-! SUPPORT. Tests with expected values from spec/ (the vectors of 95_test_vectors.md are named in each test), and for
every statement a state and operands that meet its hypotheses. -/

namespace Sys2Proof.Tests

open Sys2Proof Sys2Proof.Machine

/-- A state after reset with an input loaded and `KIN` written. -/
def sample (kin : Byte) (bytes : List Byte) : State := { State.reset.load bytes with kin := kin }

/-- What the host reads after an outcome: `STATUS`, `KOUT`, `CHK` and the output sequence. -/
def seen : Host.Outcome State Fault Refusal → Option (Byte × Byte × Byte × List Byte)
  | .next t => some (t.status, t.kout, t.chk, t.output)
  | _ => none

/-- The name of the refusal or fault an outcome stops with. -/
def stops : Host.Outcome State Fault Refusal → Option (Fault ⊕ Refusal)
  | .next _ => none
  | .fault r => some (.inl r)
  | .refused r => some (.inr r)

/-! ### Well-formedness: one ill-formed term for each check -/

theorem test_ping_with_argument_is_ill_formed : (Instr.ping [0x00]).wellFormed Config.ref = false := by decide
theorem test_assignID_without_address_is_ill_formed : (Instr.assignID []).wellFormed Config.ref = false := by decide
theorem test_requestData_with_selector_is_ill_formed : (Instr.requestData [0x01]).wellFormed Config.ref = false := by decide
theorem test_setStandby_with_argument_is_ill_formed : (Instr.setStandby [0x00]).wellFormed Config.ref = false := by decide
theorem test_setDischarge_short_is_ill_formed : (Instr.setDischarge [0x01]).wellFormed Config.ref = false := by decide
theorem test_setCharge_long_is_ill_formed : (Instr.setCharge [1, 2, 3]).wellFormed Config.ref = false := by decide
theorem test_announce_without_code_is_ill_formed : (Instr.announceCompletion []).wellFormed Config.ref = false := by decide
theorem test_reserved_longer_than_ibuf_is_ill_formed :
    (Instr.reserved03 (List.replicate 255 0)).wellFormed Config.ref = false := by
  show fitsInput Config.ref ((List.replicate 255 (0 : Byte)).length + 1) = false
  rw [List.length_replicate]; decide
theorem test_unassigned_longer_than_ibuf_is_ill_formed :
    (Instr.unassigned80 0 (List.replicate 255 0)).wellFormed Config.ref = false := by
  show fitsInput Config.ref ((List.replicate 255 (0 : Byte)).length + 1) = false
  rw [List.length_replicate]; decide
theorem test_frame_longer_than_ibuf_is_ill_formed :
    (Instr.delim (List.replicate 254 0) 0).wellFormed Config.ref = false := by
  show fitsInput Config.ref ((List.replicate 254 (0 : Byte)).length + 2) = false
  rw [List.length_replicate]; decide

/-! ### Decoding: words written out from 30_encoding.md R61, R65, R71, R72 -/

theorem test_decode_commands :
    [0b000, 0b001, 0b010, 0b011, 0b100, 0b101, 0b110, 0b111].map (fun b => (decode Config.ref .cmd [b]).toOption)
      = [some .nop, some .csum, some .enc, some .dec, some .ser, some .des, some .tx, some .rx] := by decide
theorem test_decode_kinds :
    [[0x00], [0x01, 0x2A], [0x02], [0x04], [0x05, 0x01, 0xF4], [0x06, 0xFF, 0x38], [0x07, 0x5A]].map
        (fun p => (decode Config.ref .payload p).toOption)
      = [some (.ping []), some (.assignID [0x2A]), some (.requestData []), some (.setStandby []),
         some (.setDischarge [0x01, 0xF4]), some (.setCharge [0xFF, 0x38]), some (.announceCompletion [0x5A])] := by decide
theorem test_decode_no_kinds :
    [[0b00000011], [0b00001101], [0b00011001], [0b00110001], [0b01100001], [0b11000001, 0x07]].map
        (fun p => (decode Config.ref .payload p).toOption)
      = [some (.reserved03 []), some (.unassigned08 0b101 []), some (.unassigned10 0b1001 []),
         some (.unassigned20 0b10001 []), some (.unassigned40 0b100001 []), some (.unassigned80 0b1000001 [0x07])] := by decide
theorem test_decode_wire :
    (decode Config.ref .wire [0b10110011, 0x04, 0xB7]).toOption = some (.delim [0x04] 0xB7)
      ∧ (decode Config.ref .wire [0xB3, 0xB3]).toOption = some (.delim [] 0xB3) := by decide
theorem test_decode_status :
    [0x80, 0x81, 0x82, 0x83, 0x84, 0x85, 0x86].map (fun b => (decode Config.ref .status [b]).toOption)
      = [some .stOK, some .stTooShort, some .stBadDelimiter, some .stBadChecksum, some .stUnknownFrameId,
         some .stTruncatedPayload, some .stTrailingBytes] := by decide
theorem test_decode_rejects_by_name :
    (match decode Config.ref .wire [0xB3] with | .error e => some e | .ok _ => none) = some .tooShort
      ∧ (match decode Config.ref .wire [0xB2, 0x00] with | .error e => some e | .ok _ => none) = some .badDelimiter
      ∧ (match decode Config.ref .payload [0x05, 0x01] with | .error e => some e | .ok _ => none) = some .truncatedPayload
      ∧ (match decode Config.ref .payload [0x00, 0x00] with | .error e => some e | .ok _ => none) = some .trailingBytes
      ∧ (match decode Config.ref .status [0x87] with | .error e => some e | .ok _ => none) = some .reservedStatus := by decide

/-- Table words of one byte, read in the order of log 5, and one longer word. -/
theorem test_table_words :
    decodeTableWord 8 0x00 = some .nop ∧ decodeTableWord 8 0x07 = some .rx ∧ decodeTableWord 8 0x08 = some (.unassigned08 0 [])
      ∧ decodeTableWord 8 0x40 = some (.unassigned40 0 []) ∧ decodeTableWord 8 0xB3 = some (.delim [] 0)
      ∧ decodeTableWord 8 0x80 = some .stOK ∧ decodeTableWord 8 0x86 = some .stTrailingBytes
      ∧ decodeTableWord 8 0x87 = some (.unassigned80 7 []) ∧ decodeTableWord 16 0x2A01 = some (.assignID [0x2A]) := by decide

/-- From reset, the very next step runs a placed word, whatever its format, and completes with the `STATUS` the rules give. -/
theorem test_placed_words_run_first :
    [0x00, 0x01, 0x02, 0x03, 0x04, 0x05, 0x06, 0x07, 0x08, 0x10, 0x20, 0x40, 0xB3].map
        (fun w => (seen (step (State.reset.withFetchWord 8 w))).map (·.1))
      = [some 0x00, some 0x80, some 0x80, some 0x81, some 0x80, some 0x85, some 0x80, some 0x81,
         some 0x84, some 0x84, some 0x84, some 0x84, some 0x83] := by decide
theorem test_placed_status_words_run_first :
    [0x80, 0x81, 0x82, 0x83, 0x84, 0x85, 0x86].map (fun w => (seen (step (State.reset.withFetchWord 8 w))).map (·.1))
      = [some 0x80, some 0x81, some 0x82, some 0x83, some 0x84, some 0x85, some 0x86] := by decide

/-! ### The commands (95_test_vectors.md, Part 2) -/

/-- V-HP-3: NOP leaves the error of the command before it. -/
theorem test_nop_V_HP_3 : seen (exec .nop ((sample 0 [0xB3]).raise .tooShort 0)) = some (0x81, 0xFF, 0x00, []) := by decide
/-- V-CSUM-3. -/
theorem test_csum_V_CSUM_3 : seen (exec .csum (sample 0 [0xB3, 0x01, 0x02, 0x03])) = some (0x80, 0xFF, 0xB3, []) := by decide
/-- V-CSUM-6. -/
theorem test_csum_V_CSUM_6 : seen (exec .csum (sample 0 [0x55, 0xAA])) = some (0x80, 0xFF, 0xFF, []) := by decide
/-- V-ENC-4. -/
theorem test_enc_V_ENC_4 :
    seen (exec .enc (sample 0 [0x00, 0xFF, 0x55])) = some (0x80, 0xFF, 0x19, [0xB3, 0x00, 0xFF, 0x55, 0x19]) := by decide
/-- V-ENC-5: no escaping. -/
theorem test_enc_V_ENC_5 : seen (exec .enc (sample 0 [0xB3])) = some (0x80, 0xFF, 0x00, [0xB3, 0xB3, 0x00]) := by decide
/-- V-DEC-7. -/
theorem test_dec_V_DEC_7 :
    seen (exec .dec (sample 0 [0xB3, 0x01, 0x02, 0x03, 0x00])) = some (0x83, 0xFF, 0xB3, []) := by decide
/-- V-DEC-21. -/
theorem test_dec_V_DEC_21 :
    seen (exec .dec (sample 0 [0xB3, 0x00, 0xFF, 0x55, 0x19])) = some (0x80, 0xFF, 0x19, [0x00, 0xFF, 0x55]) := by decide
/-- V-SER-10. -/
theorem test_ser_V_SER_10 :
    seen (exec .ser (sample 0x05 [0x01, 0xF4])) = some (0x80, 0xFF, 0x00, [0x05, 0x01, 0xF4]) := by decide
/-- V-SER-8: the Frame ID before the length. -/
theorem test_ser_V_SER_8 : seen (exec .ser (sample 0x03 [0x00])) = some (0x84, 0xFF, 0x00, []) := by decide
/-- V-DES-12. -/
theorem test_des_V_DES_12 :
    seen (exec .des (sample 0 [0x05, 0x01, 0xF4])) = some (0x80, 0x05, 0x00, [0x01, 0xF4]) := by decide
/-- V-DES-1. -/
theorem test_des_V_DES_1 : seen (exec .des (sample 0 [])) = some (0x85, 0xFF, 0x00, []) := by decide
/-- V-TX-10. -/
theorem test_tx_V_TX_10 :
    seen (exec .tx (sample 0x05 [0x01, 0xF4])) = some (0x80, 0xFF, 0x43, [0xB3, 0x05, 0x01, 0xF4, 0x43]) := by decide
/-- V-TX-2: nothing is framed when the serialize stage fails. -/
theorem test_tx_V_TX_2 : seen (exec .tx (sample 0x00 [0x00])) = some (0x86, 0xFF, 0x00, []) := by decide
/-- V-RX-9. -/
theorem test_rx_V_RX_9 :
    seen (exec .rx (sample 0 [0xB3, 0x05, 0x01, 0xF4, 0x43])) = some (0x80, 0x05, 0x43, [0x01, 0xF4]) := by decide
/-- V-RX-21: the checksum before the Frame ID. -/
theorem test_rx_V_RX_21 : seen (exec .rx (sample 0 [0xB3, 0x09, 0x01, 0x00])) = some (0x83, 0xFF, 0xBB, []) := by decide
/-- V-HP-6: an input byte never written. -/
theorem test_csum_V_HP_6 :
    stops (exec .csum (State.reset.setIlen 1)) = some (.inr .inputNotWritten) := by decide

/-! ### The rows of the other formats (43_frame_model.md, 60_exceptions.md) -/

/-- Kind rows with `ACC` at 0x98, the fold of `[B3, 01, 2A]` (43_frame_model.md R131). -/
theorem test_kind_rows :
    [Instr.ping [], .assignID [0x2A], .requestData [], .setStandby [], .setDischarge [0x01, 0xF4], .setCharge [0xFF, 0x38],
      .announceCompletion [0x00]].map (fun i => seen (exec i (State.reset.ran 0x98 0)))
      = [some (0x80, 0x00, 0x98, []), some (0x80, 0x01, 0x98, [0x2A]), some (0x80, 0x02, 0x98, []),
         some (0x80, 0x04, 0x98, []), some (0x80, 0x05, 0x98, [0x01, 0xF4]), some (0x80, 0x06, 0x98, [0xFF, 0x38]),
         some (0x80, 0x07, 0x98, [0x00])] := by decide
theorem test_no_kind_rows :
    [Instr.reserved03 [], .unassigned08 0 [], .unassigned10 15 [1], .unassigned20 31 [], .unassigned40 63 [],
      .unassigned80 0x33 []].map (fun i => (seen (exec i State.reset)).map (·.1))
      = [some 0x84, some 0x84, some 0x84, some 0x84, some 0x84, some 0x84] := by decide
theorem test_delim_row :
    seen (exec (.delim [0x01, 0x2A] 0x98) State.reset) = some (0x80, 0xFF, 0x98, [0x01, 0x2A])
      ∧ seen (exec (.delim [] 0x00) State.reset) = some (0x83, 0xFF, 0xB3, []) := by decide
theorem test_status_rows :
    [Instr.stOK, .stTooShort, .stBadDelimiter, .stBadChecksum, .stUnknownFrameId, .stTruncatedPayload,
      .stTrailingBytes].map (fun i => seen (exec i (State.reset.ran 0x42 0)))
      = [some (0x80, 0xFF, 0x42, []), some (0x81, 0xFF, 0x00, []), some (0x82, 0xFF, 0x00, []),
         some (0x83, 0xFF, 0x42, []), some (0x84, 0xFF, 0x42, []), some (0x85, 0xFF, 0x42, []),
         some (0x86, 0xFF, 0x42, [])] := by decide

/-! ### The port, the datapath, the fields -/

/-- V-HP-11, V-HP-12: low bits stored. -/
theorem test_port_V_HP_11_12 :
    ((State.reset.setIlen 0x01FF).hostRead 4) = 0x00FF ∧ ((State.reset.setKin 0x1234).hostRead 2) = 0x0034 := by decide
/-- V-HP-8: reads at `OLEN` and above give 0. -/
theorem test_port_V_HP_8 :
    (match exec .enc (sample 0 [0x01, 0x02, 0x03]) with
      | .next t => [t.hostRead 0x404, t.hostRead 0x405, t.hostRead 0x501]
      | _ => []) = [0xB3, 0x00, 0x00] := by decide
/-- V-HP-14: only `CMD` bits 2:0 count. -/
theorem test_port_V_HP_14 :
    seen (State.hostWrite 0 0xFFFB (sample 0 [0xB3, 0xB3])) = some (0x80, 0xFF, 0xB3, []) := by decide
/-- The trace of `ACC` for `LOAD [01, 02, 03]; ENC` (95_test_vectors.md, the byte-serial datapath). -/
theorem test_acc_trace :
    [0, 1, 2, 3].map (fun k => (dpEncLoop k (sample 0 [0x01, 0x02, 0x03])).acc) = [0xB3, 0xB2, 0xB0, 0xB3] := by decide
/-- P2: the argument bytes of SetDischarge as one 16-bit field. -/
theorem test_field_values :
    unsignedValue .big [0x01, 0xF4] = 500 ∧ unsignedValue .little [0x01, 0xF4] = 62465
      ∧ signedValue .big [0xFF, 0x38] = -200 := by decide

/-- P2: the fields of SetDischarge under the build's `FIELDS` and `FIELD_ENDIAN`. -/
theorem test_build_fields : fieldValues Config.ref ⟨.setDischarge, [0x01, 0xF4]⟩ = [500] := by decide

/-- What the port returned to a script. -/
def answers (s : State) (lines : List Line) : List PortWord :=
  match s.script lines with
  | .next t => t.replies
  | _ => []

/-- The scripts of 30_encoding.md R76 on V-ENC-4, V-DEC-7 and V-DES-12, as the host reads them. -/
theorem test_call_scripts :
    answers (sample 0 []) (callLines (loadLines [0x00, 0xFF, 0x55]) 2 5) = [0x80, 5, 0xB3, 0x00, 0xFF, 0x55, 0x19]
      ∧ answers (sample 0 []) (callLines (loadLines [0xB3, 0x01, 0x02, 0x03, 0x00]) 3 0) = [0x83, 0]
      ∧ answers (sample 0 []) (deserializeLines [0x05, 0x01, 0xF4] 2) = [0x80, 0x05, 2, 0x01, 0xF4] := by decide
theorem test_call_results :
    (match readCall [0x83, 0] with | some (.error e) => some e | _ => none) = some .badChecksum
      ∧ (match readDeserialize [0x80, 0x05, 2, 0x01, 0xF4] with | some (.ok p) => some p | _ => none)
        = some (0x05, [0x01, 0xF4]) := by decide

/-! ### The hypotheses of the statements are met -/

theorem sample_ilen (kin : Byte) (bytes : List Byte) (h : bytes.length ≤ 255) :
    (sample kin bytes).ilen.toNat = bytes.length := by
  show ((BitVec.ofNat 16 bytes.length).setWidth 8 |>.setWidth 16).toNat = bytes.length
  rw [BitVec.toNat_setWidth, BitVec.toNat_setWidth, BitVec.toNat_ofNat]
  omega

/-- The sample's input is what was loaded. -/
theorem sample_inputIs (kin : Byte) (bytes : List Byte) (h : bytes.length ≤ 255) : (sample kin bytes).inputIs bytes := by
  have hn : (sample kin bytes).n = bytes.length := sample_ilen kin bytes h
  refine ⟨hn.symm, fun i hi => ?_⟩
  show Memory.read (Memory.writeList [] 0 bytes) i = _
  rw [Memory.read_writeList, if_pos (by omega)]
  rfl

/-- The sample meets the invariant. -/
theorem sample_inv (kin : Byte) (bytes : List Byte) (h : bytes.length ≤ 255) : (sample kin bytes).Inv where
  sized :=
    { cfg := show Config.ref.wf by decide
      ilen := by rw [sample_ilen kin bytes h]; exact h
      olen := Nat.zero_le _
      idx := Nat.zero_le _
      ibuf := Memory.writeList_wf [] 0 bytes rfl
      obuf := rfl
      ibufBelow := Memory.writeList_below [] 0 255 bytes rfl (by omega)
      obufBelow := rfl
      stored := fun j hj => absurd hj (Nat.not_lt_zero j) }
  settled :=
    { status := .inl rfl
      reset := fun _ => ⟨rfl, rfl, rfl⟩
      error := fun _ => ⟨rfl, rfl⟩
      kout := .inl rfl
      ph := rfl }

/-- The smallest build the parameters allow. -/
def smallest : Config := ⟨3, ⟨0, 1, 4, 0, 1, 1, 4⟩, ⟨[], [1], [1, 3], [], [1], [1], [4]⟩, .little⟩

/-- The widest build the parameters allow. -/
def widest : Config := { Config.ref with lw := 15 }

theorem witness_configurations : Config.ref.wf ∧ smallest.wf ∧ widest.wf := ⟨by decide, by decide, by decide⟩

/-- An input of `n + k` bytes fits the reference configuration. -/
theorem fits (n k : Nat) (h : n + k ≤ 255) :
    fitsInput Config.ref ((List.replicate n (0 : Byte)).length + k) = true := by
  rw [List.length_replicate]; exact decide_eq_true h

theorem witness_DecodeOfEncode :
    Config.ref.wf ∧ (Instr.rx).wellFormed Config.ref = true ∧ (Instr.setCharge [1, 2]).wellFormed Config.ref = true
      ∧ (Instr.unassigned80 127 (List.replicate 254 0)).wellFormed Config.ref = true
      ∧ (Instr.delim (List.replicate 253 0) 0).wellFormed Config.ref = true :=
  ⟨by decide, by decide, by decide, fits 254 1 (by decide), fits 253 2 (by decide)⟩

theorem witness_EncodeOfDecode :
    Config.ref.wf ∧ Format.wire ≠ .cmd ∧ decode Config.ref .wire [0xB3, 0x00] = .ok (.delim [] 0)
      ∧ decode Config.ref .payload [0x08] = .ok (.unassigned08 0 []) ∧ decode Config.ref .status [0x86] = .ok .stTrailingBytes :=
  ⟨by decide, by decide, rfl, rfl, rfl⟩

/-- One pending event of each sort, at the last address of the port and just above it. -/
def pending (e : HostEvent) : State := { sample 0 [] with port := [e] }

theorem witness_StepPerformsTheNextHostEvent :
    (sample 0 []).port = [] ∧ (pending (.read 0x7FF)).port = .read 0x7FF :: [] ∧ 0x7FF < 2 ^ (Config.ref.lw + 3)
      ∧ (pending (.write 0x7FF 1)).port = .write 0x7FF 1 :: [] ∧ (pending .reset).port = .reset :: []
      ∧ 2 ^ (Config.ref.lw + 3) ≤ 0x800 ∧ (pending (.read 0x800)).port = .read 0x800 :: [] := by decide

theorem witness_StepRunsTheCommandWritten : (pending (.write 0 0x0002)).port = .write 0 0x0002 :: [] := rfl

theorem witness_OnlyUnwrittenInputStopsAnAccess :
    (HostEvent.read 0x7FF).onPort Config.ref ∧ (HostEvent.write 0x7FF 0).onPort Config.ref ∧ HostEvent.reset.onPort Config.ref
      ∧ (pending (.write 0 1)).port = .write 0 1 :: [] :=
  ⟨show 0x7FF < 2 ^ (Config.ref.lw + 3) by decide, show 0x7FF < 2 ^ (Config.ref.lw + 3) by decide, trivial, rfl⟩

/-- Both outcomes of R237 occur. -/
theorem witness_UnwrittenInputIsRefused :
    (0 < (State.reset.setIlen 1).ilen.toNat ∧ Memory.read (State.reset.setIlen 1).ibuf 0 = none)
      ∧ (sample 0 []).ilen.toNat = 0 ∧ Instr.csum.format = .cmd ∧ Instr.csum ≠ .nop := by decide

theorem witness_DesRunsThePayloadRow :
    (sample 0 [0x01, 0x2A]).inputIs [0x01, 0x2A] ∧ decodePayload Config.ref [0x01, 0x2A] = .ok (.assignID [0x2A]) :=
  ⟨sample_inputIs _ _ (by decide), rfl⟩

theorem witness_DecAndRxRunTheRows :
    (sample 0 [0xB3, 0x01, 0x2A, 0x98]).inputIs [0xB3, 0x01, 0x2A, 0x98]
      ∧ decodeWire Config.ref [0xB3, 0x01, 0x2A, 0x98] = .ok (.delim [0x01, 0x2A] 0x98)
      ∧ ([0xB3, 0x01, 0x2A, 0x98] : List Byte) = delimiter :: ([0x01, 0x2A] ++ [checksum [0x01, 0x2A]])
      ∧ decodePayload Config.ref [0x01, 0x2A] = .ok (.assignID [0x2A]) :=
  ⟨sample_inputIs _ _ (by decide), rfl, by decide, rfl⟩

theorem witness_EveryFailureIsAStatusRow :
    ∃ t, exec .dec (sample 0 []) = .next t ∧ t.status ≠ 0x80 ∧ Instr.dec.format = .cmd ∧ Instr.dec ≠ .nop :=
  ⟨_, rfl, by decide, rfl, by decide⟩

/-- The ranges of the address map at `LW = 8`: the ends of each are where 20_memory.md R42 puts them. -/
theorem witness_AddressMap :
    State.reset.cfg.wf ∧ 2 ^ (Config.ref.lw + 1) = 0x200 ∧ 2 ^ (Config.ref.lw + 2) = 0x400 ∧ Config.ref.nmax = 255
      ∧ [8, 0x1FF, 0x200, 0x2FE, 0x2FF, 0x3FF, 0x400, 0x501, 0x502, 0x7FF].map (locate Config.ref)
        = [.unmapped, .unmapped, .ibuf 0, .ibuf 254, .unmapped, .unmapped, .obuf 0, .obuf 257, .unmapped, .unmapped] := by
  decide

theorem witness_ResetEvent : (pending .reset).port = .reset :: [] := rfl

/-- A running state of each command: RX of a frame after its Frame ID, TX after one argument byte, and the ends of ENC. -/
theorem witness_ResetAbandons :
    Instr.rx.format = .cmd ∧ Instr.rx ≠ .nop ∧ (dpAfter .rx 1 (sample 0 [0xB3, 0x01, 0x2A, 0x98])).acc = 0xB2
      ∧ (dpAfter .tx 1 (sample 0x01 [0x2A])).acc = 0x98 ∧ (dpAfter .tx 1 (sample 0x01 [0x2A])).ph = .run
      ∧ (dpAfter .enc 0 (sample 0 [])).acc = 0xB3 ∧ (dpAfter .des 1 (sample 0 [0x01, 0x2A])).idx = 2 := by decide

theorem witness_StepKeepsTheInvariant :
    (sample 0 []).Inv ∧ step (sample 0 []) = .next (sample 0 []) := ⟨sample_inv _ _ (by decide), rfl⟩

theorem witness_EveryRowKeepsTheInvariant :
    (sample 0 [0xB3]).Inv ∧ (Instr.ping []).wellFormed Config.ref = true ∧ ∃ t, exec (.ping []) (sample 0 [0xB3]) = .next t :=
  ⟨sample_inv _ _ (by decide), rfl, _, rfl⟩

theorem witness_NopCodes : (0xFFF8 : PortWord).toNat % 8 = 0 := rfl

/-- Inputs at the ends of the range: none, and `NMAX` bytes. -/
theorem witness_inputs (kin : Byte) :
    ((sample kin []).Sized ∧ (sample kin []).inputIs [])
      ∧ (sample kin (List.replicate 255 0xA5)).Sized
      ∧ (sample kin (List.replicate 255 0xA5)).inputIs (List.replicate 255 0xA5) :=
  ⟨⟨(sample_inv _ _ (by decide)).sized, sample_inputIs _ _ (by decide)⟩, (sample_inv _ _ (Nat.le_of_eq List.length_replicate)).sized,
    sample_inputIs _ _ (Nat.le_of_eq List.length_replicate)⟩

/-- The clauses of DEC: one byte; two bytes with a wrong first; the shortest frame with a wrong and with the right last. -/
theorem witness_DecClauses :
    ([0xB3] : List Byte).length < 2
      ∧ ((0x00 : Byte) ≠ 0xB3)
      ∧ ([0xB3, 0x00] : List Byte) = 0xB3 :: ([] ++ [0x00]) ∧ xorfold (0xB3 :: []) ≠ 0x00
      ∧ ([0xB3, 0xB3] : List Byte) = 0xB3 :: ([] ++ [0xB3]) ∧ xorfold (0xB3 :: []) = 0xB3 := by decide

/-- The clauses of SER and TX under `ARGLEN_REF`: no kind at both ends, a kind with one byte too few, too many, exactly. -/
theorem witness_SerTxClauses :
    (∀ k : Kind, k.fid ≠ (sample 0x03 []).kin) ∧ (∀ k : Kind, k.fid ≠ (sample 0xFF []).kin)
      ∧ Kind.setDischarge.fid = (sample 0x05 [0x01]).kin
      ∧ ([0x01] : List Byte).length < Config.ref.arglenOf .setDischarge
      ∧ Config.ref.arglenOf .setDischarge < ([1, 2, 3] : List Byte).length
      ∧ ([0x01, 0xF4] : List Byte).length = Config.ref.arglenOf .setDischarge :=
  ⟨by intro k; cases k <;> decide, by intro k; cases k <;> decide, by decide, by decide, by decide, by decide⟩

/-- The clauses of DES. -/
theorem witness_DesClauses :
    (∀ k : Kind, k.fid ≠ (0x08 : Byte)) ∧ ([0x07] : List Byte) = Kind.announceCompletion.fid :: []
      ∧ ([] : List Byte).length < Config.ref.arglenOf .announceCompletion
      ∧ Config.ref.arglenOf .announceCompletion < ([0x00, 0x00] : List Byte).length
      ∧ ([0x00] : List Byte).length = Config.ref.arglenOf .announceCompletion :=
  ⟨by intro k; cases k <;> decide, by decide, by decide, by decide, by decide⟩

/-- The clauses of RX after the decode stage. -/
theorem witness_RxClauses :
    ([0xB3, 0x03, 0xB0] : List Byte) = 0xB3 :: 0x03 :: ([] ++ [0xB0]) ∧ xorfold (0xB3 :: 0x03 :: []) = 0xB0
      ∧ ([0xB3, 0x01, 0xB2] : List Byte) = 0xB3 :: Kind.assignID.fid :: ([] ++ [0xB2])
      ∧ xorfold (0xB3 :: Kind.assignID.fid :: []) = 0xB2 ∧ ([] : List Byte).length < Config.ref.arglenOf .assignID
      ∧ xorfold (0xB3 :: Kind.ping.fid :: [0x00]) = 0xB3 ∧ Config.ref.arglenOf .ping < ([0x00] : List Byte).length
      ∧ xorfold (0xB3 :: Kind.assignID.fid :: [0x2A]) = 0x98
      ∧ ([0x2A] : List Byte).length = Config.ref.arglenOf .assignID := by decide

theorem witness_KindRows :
    State.reset.cfg.wf ∧ ([] : List Byte).length = Config.ref.arglenOf .ping
      ∧ ([] : List Byte).length < Config.ref.arglenOf .setCharge ∧ Config.ref.arglenOf .ping < ([0] : List Byte).length := by
  decide

theorem witness_RowsWithNoKind : ∃ x, Instr.unassigned80 127 [0x01] = .unassigned80 x [0x01] := ⟨127, rfl⟩

theorem witness_DelimRow :
    State.reset.cfg.wf ∧ (Instr.delim [] 0xB3).wellFormed Config.ref = true ∧ (0xB3 : Byte) = 0xB3 ^^^ xorfold []
      ∧ (0x00 : Byte) ≠ 0xB3 ^^^ xorfold [] := by decide

theorem witness_StatusRows : Instr.stTooShort = .stTooShort ∧ (0x81 : Byte) = 0x81 ∧ (0x00 : Byte) = 0x00 := ⟨rfl, rfl, rfl⟩

theorem witness_RowsLeaveInputs :
    (sample 0 [0x01]).Sized ∧ Instr.enc.wellFormed Config.ref = true ∧ ∃ t, exec .enc (sample 0 [0x01]) = .next t :=
  ⟨(sample_inv _ _ (by decide)).sized, rfl, _, rfl⟩

/-- Two states that differ in earlier outputs and in an input byte above `ILEN`. -/
theorem witness_CommandsDependOnTheirInputsOnly :
    ∃ s1 s2 : State, s1 = sample 0 [0x01] ∧ s2 = { s1 with status := 0x83, chk := 0x55, ibuf := [(0, 0x01), (7, 0x99)] }
      ∧ s1.cfg = s2.cfg ∧ s1.ilen = s2.ilen ∧ s1.cfg.wf ∧ s1.ilen.toNat ≤ s1.cfg.nmax ∧ s1.kin = s2.kin
      ∧ (∀ k, k < s1.ilen.toNat → Memory.read s1.ibuf k = Memory.read s2.ibuf k) ∧ s1 ≠ s2 :=
  ⟨_, _, rfl, rfl, rfl, rfl, by decide, by decide, rfl, by decide, by decide⟩

theorem witness_StatusAndKoutAndOlen :
    (sample 0 [0x00]).Sized ∧ (sample 0 [0x00]).cfg.wf ∧ Instr.des.format = .cmd ∧ Instr.des ≠ .nop
      ∧ (∃ t, exec .des (sample 0 [0x00]) = .next t ∧ t.status = 0x80)
      ∧ (∃ t, exec .rx (sample 0 [0xB3, 0x00, 0xB3]) = .next t ∧ t.status = 0x80)
      ∧ ∃ t, exec .des (sample 0 [0x03]) = .next t ∧ t.status ≠ 0x80 :=
  ⟨(sample_inv _ _ (by decide)).sized, by decide, rfl, by decide, ⟨_, rfl, by decide⟩, ⟨_, rfl, by decide⟩, _, rfl, by decide⟩

theorem witness_ChkClauses :
    (∃ t, exec .tx (sample 0x00 []) = .next t ∧ t.status = 0x80) ∧ (∃ t, exec .tx (sample 0x03 []) = .next t ∧ t.status ≠ 0x80)
      ∧ (2 ≤ ([0xB3, 0x00] : List Byte).length ∧ ([0xB3, 0x00] : List Byte).head? = some 0xB3)
      ∧ (([0xB3] : List Byte).length < 2 ∧ ([0xB2, 0x00] : List Byte).head? ≠ some 0xB3) :=
  ⟨⟨_, rfl, by decide⟩, ⟨_, rfl, by decide⟩, by decide, by decide⟩

theorem witness_FirstFailingCheck :
    (sample 0 [0xB3, 0xB3]).inputIs [0xB3, 0xB3]
      ∧ firstFailing (codecChecks [0xB3, 0xB3] ++ modelChecks Config.ref (wirePayload [0xB3, 0xB3])) = some .truncatedPayload :=
  ⟨sample_inputIs _ _ (by decide), by decide⟩

theorem witness_ErrorPasses :
    ([0x04, 0x04] : List Byte).length = ([0x01] : List Byte).length + 1 ∧ xorfold [0x04, 0x04] = 0x00
      ∧ xorfold [0x04, 0x00] ≠ 0x00 ∧ 1 ≤ ([0x01] : List Byte).length ∧ (0x01 : Byte) ≠ 0x00
      ∧ 1 ≤ (wireEncode []).length ∧ 1 < (wireEncode []).length ∧ 7 < 8 := by decide

theorem witness_RoundTrips :
    (sample 0 (List.replicate 253 0xA5)).Inv ∧ (List.replicate 253 (0xA5 : Byte)).length ≤ Config.ref.nmax - 2
      ∧ Kind.ping.fid = (sample 0 []).kin ∧ ([] : List Byte).length = Config.ref.arglenOf .ping
      ∧ ∃ u, exec .rx (sample 0 [0xB3, 0x00, 0xB3]) = .next u ∧ u.status = 0x80 :=
  ⟨sample_inv _ _ (by rw [List.length_replicate]; decide), by rw [List.length_replicate]; decide, rfl, rfl, _, rfl, by decide⟩

theorem witness_ComposedCommands :
    (∃ t, exec .dec (sample 0 [0xB3, 0x00, 0xB3]) = .next t ∧ t.status = 0x80) ∧ (∃ t, exec .dec (sample 0 []) = .next t ∧ t.status ≠ 0x80)
      ∧ (∃ t, exec .ser (sample 0 []) = .next t ∧ t.status = 0x80) ∧ ∃ t, exec .ser (sample 3 []) = .next t ∧ t.status ≠ 0x80 :=
  ⟨⟨_, rfl, by decide⟩, ⟨_, rfl, by decide⟩, ⟨_, rfl, by decide⟩, _, rfl, by decide⟩

theorem witness_ReservedAndUnassigned :
    ((0x03 : Byte) = 0x03) ∧ ((0x08 : Byte) ≤ 0x08) ∧ ((0x08 : Byte) ≤ 0xFF)
      ∧ (sample 0xFF [0xFF]).inputIs [0xFF] ∧ (sample 0 (wireEncode [0x03])).inputIs (wireEncode [0x03]) :=
  ⟨rfl, by decide, by decide, sample_inputIs _ _ (by decide), sample_inputIs _ _ (by decide)⟩

theorem witness_FrameModelLaws :
    (Frame.mk .assignID [0x2A]).wf Config.ref = true ∧ deserialize Config.ref [0x01, 0x2A] = .ok ⟨.assignID, [0x2A]⟩
      ∧ Config.ref.arglenOf .ping < ([0x00] : List Byte).length :=
  ⟨rfl, rfl, by decide⟩

theorem witness_Fields : ([1, 2] : List Nat)[1]? = some 2 ∧ (0x01 : Byte) = ([0x01, 0xF4] : List Byte).headD 0
      ∧ (Frame.mk .setDischarge [0x01, 0xF4]).wf Config.ref = true ∧ (Config.ref.fields.get .setDischarge)[0]? = some 2 := by
  decide

theorem witness_Scripts :
    (sample 0 []).Inv ∧ (List.replicate 255 (0x00 : Byte)).length ≤ Config.ref.nmax
      ∧ ([] : List Byte).length = Config.ref.arglenOf .setStandby :=
  ⟨sample_inv _ _ (by decide), Nat.le_of_eq List.length_replicate, rfl⟩

theorem witness_Loops :
    (sample 0 [0x01, 0x02]).inputIs [0x01, 0x02] ∧ 2 ≤ ([0x01, 0x02] : List Byte).length
      ∧ (sample 0 [0xB3, 0x00, 0xB3]).inputIs [0xB3, 0x00, 0xB3] ∧ 1 + 2 ≤ ([0xB3, 0x00, 0xB3] : List Byte).length :=
  ⟨sample_inputIs _ _ (by decide), by decide, sample_inputIs _ _ (by decide), by decide⟩

theorem witness_ByteSerial :
    (sample 0 [0x01]).Sized ∧ Instr.enc.format = .cmd ∧ (sample 0 [0x01]).inputWritten :=
  ⟨(sample_inv _ _ (by decide)).sized, rfl, by unfold State.inputWritten; decide⟩

end Sys2Proof.Tests
end

/-! SUPPORT. What a command answers: a verdict on its input sequence, delivered in one completion (00_scope.md R9). -/

namespace Sys2Proof.Machine

/-! ### Results -/

/-- The result of a command: an error with the checksum to report, or a success with its outputs (00_scope.md R9,
60_exceptions.md R200). -/
inductive CommandResult where
  | error (e : FrameError) (chk : Byte)
  | ok (kout chk : Byte) (out : List Byte)

def CommandResult.code : CommandResult → BitVec 4
  | .error e _ => e.code
  | .ok _ _ _ => codeOK

def CommandResult.kout : CommandResult → Byte
  | .error _ _ => 0xFF
  | .ok kout _ _ => kout

def CommandResult.chk : CommandResult → Byte
  | .error _ chk => chk
  | .ok _ chk _ => chk

def CommandResult.out : CommandResult → List Byte
  | .error _ _ => []
  | .ok _ _ out => out

@[simp] theorem CommandResult.code_error (e : FrameError) (c : Byte) : (CommandResult.error e c).code = e.code := rfl
@[simp] theorem CommandResult.code_ok (k c : Byte) (out : List Byte) : (CommandResult.ok k c out).code = codeOK := rfl
@[simp] theorem CommandResult.kout_error (e : FrameError) (c : Byte) : (CommandResult.error e c).kout = 0xFF := rfl
@[simp] theorem CommandResult.kout_ok (k c : Byte) (out : List Byte) : (CommandResult.ok k c out).kout = k := rfl
@[simp] theorem CommandResult.chk_error (e : FrameError) (c : Byte) : (CommandResult.error e c).chk = c := rfl
@[simp] theorem CommandResult.chk_ok (k c : Byte) (out : List Byte) : (CommandResult.ok k c out).chk = c := rfl
@[simp] theorem CommandResult.out_error (e : FrameError) (c : Byte) : (CommandResult.error e c).out = [] := rfl
@[simp] theorem CommandResult.out_ok (k c : Byte) (out : List Byte) : (CommandResult.ok k c out).out = out := rfl

/-- No error's code is that of a success (30_encoding.md R72). -/
theorem statusWord_error_ne (e : FrameError) : statusWord e.code ≠ 0x80 := by
  cases e <;> decide

/-- `STATUS` is 0x80 after a success and after nothing else. -/
theorem CommandResult.eq_ok_of_status (r : CommandResult) (h : statusWord r.code = 0x80) :
    r = .ok r.kout r.chk r.out := by
  cases r with
  | error e c => exact absurd h (statusWord_error_ne e)
  | ok k c out => rfl

/-- Any other `STATUS` is that of an error. -/
theorem CommandResult.eq_error_of_status (r : CommandResult) (h : statusWord r.code ≠ 0x80) :
    ∃ e, r = .error e r.chk := by
  cases r with
  | error e c => exact ⟨e, rfl⟩
  | ok k c out => exact absurd (show statusWord codeOK = 0x80 by decide) h

/-- The completion with a result: `raise` for an error, `complete` with `CODE = OK` for a success (00_scope.md R9). -/
def State.deliver (r : CommandResult) (s : State) : State := s.complete r.code r.kout r.chk r.out

theorem State.deliver_shows (r : CommandResult) (s : State) (h : r.out.length < 2 ^ 16) :
    (s.deliver r).shows (statusWord r.code) r.kout r.chk r.out :=
  State.complete_shows _ _ _ _ _ h

/-- What the host finds after a command fixes every output it can read (10_state.md R11). -/
theorem State.shows.sameOutputs {t u : State} {st k c : Byte} {out : List Byte} (ht : t.shows st k c out)
    (hu : u.shows st k c out) : t.sameOutputs u := by
  obtain ⟨htst, htk, htc, htl, hto, htz⟩ := ht
  obtain ⟨hust, huk, huc, hul, huo, huz⟩ := hu
  have hl : t.olen = u.olen := BitVec.eq_of_toNat_eq (htl.trans hul.symm)
  refine ⟨htst.trans hust.symm, htk.trans huk.symm, hl, htc.trans huc.symm, fun j => ?_⟩
  by_cases hj : j < out.length
  · have hlt : j < t.olen.toNat := htl ▸ hj
    have hj' := congrArg (·[j]?) (hto.trans huo.symm)
    simpa [State.output, ← hl, hlt] using hj'
  · rw [htz j (Nat.le_of_not_lt hj), huz j (Nat.le_of_not_lt hj)]

/-! ### The units -/

/-- Only a kind's own Frame ID names it (30_encoding.md R65). -/
theorem Kind.fid_of_ofFid {b : Byte} {k : Kind} (h : Kind.ofFid b = some k) : k.fid = b := by
  unfold Kind.ofFid at h
  split at h <;> cases h <;> exact (BitVec.eq_of_toNat_eq ‹_›).symm

/-- DISC passes exactly a kind with its number of argument bytes (43_frame_model.md R129). -/
theorem disc_eq_ok {c : Config} {fid : Byte} {m : Nat} {k : Kind} (h : disc c fid m = .ok k) :
    fid = k.fid ∧ m = c.arglenOf k := by
  unfold disc discLookup at h
  cases hk : Kind.ofFid fid with
  | none => simp [hk] at h
  | some k' =>
    simp only [hk, Option.map_some] at h
    split at h
    · cases h
    · split at h
      · cases h
      · cases h
        exact ⟨(Kind.fid_of_ofFid hk).symm, by omega⟩

/-- The result of a command whose last check is DISC on a Frame ID and a number of argument bytes: its error, with the
checksum to report, or the success (43_frame_model.md R129). -/
def discriminated (c : Config) (fid : Byte) (m : Nat) (chk : Byte) (success : CommandResult) : CommandResult :=
  match disc c fid m with
  | .error e => .error e chk
  | .ok _ => success

theorem discriminated_cases (c : Config) (fid : Byte) (m : Nat) (chk : Byte) (success : CommandResult) :
    (∃ e, discriminated c fid m chk success = .error e chk)
      ∨ ((∃ k : Kind, fid = k.fid ∧ m = c.arglenOf k) ∧ discriminated c fid m chk success = success) := by
  unfold discriminated
  cases hd : disc c fid m with
  | error e => exact .inl ⟨e, rfl⟩
  | ok k => exact .inr ⟨⟨k, disc_eq_ok hd⟩, rfl⟩

theorem discriminated_chk (c : Config) (fid : Byte) (m : Nat) {chk : Byte} {success : CommandResult}
    (h : success.chk = chk) : (discriminated c fid m chk success).chk = chk := by
  obtain ⟨e, he⟩ | ⟨-, hs⟩ := discriminated_cases c fid m chk success
  · rw [he]
    rfl
  · rw [hs, h]

theorem discriminated_eq_error {c : Config} {fid chk chk' k v : Byte} {m : Nat} {out : List Byte} {e : FrameError}
    (h : discriminated c fid m chk (.ok k v out) = .error e chk') : chk' = chk := by
  obtain ⟨e', he⟩ | ⟨-, hs⟩ := discriminated_cases c fid m chk (.ok k v out)
  · cases he.symm.trans h
    rfl
  · cases hs.symm.trans h

theorem discriminated_eq_ok {c : Config} {fid chk kout chk' : Byte} {m : Nat} {success : CommandResult} {out : List Byte}
    (h : discriminated c fid m chk success = .ok kout chk' out) :
    success = .ok kout chk' out ∧ ∃ k : Kind, fid = k.fid ∧ m = c.arglenOf k := by
  obtain ⟨e, he⟩ | ⟨hk, hs⟩ := discriminated_cases c fid m chk success
  · cases he.symm.trans h
  · exact ⟨hs.symm.trans h, hk⟩

/-- The result of the discriminator on a payload (43_frame_model.md R128, R143). -/
def recognised (c : Config) (chk : Byte) : List Byte → CommandResult
  | [] => .error .truncatedPayload chk
  | fid :: args => discriminated c fid args.length chk (.ok fid chk args)

/-- The discriminator delivers that result, with `CHK` from `ACC`. -/
theorem State.discriminate_eq (p : List Byte) (s : State) :
    s.discriminate p = s.deliver (recognised s.cfg s.acc p) := by
  cases p with
  | nil => rfl
  | cons fid args =>
    simp only [State.discriminate, recognised, discriminated]
    cases disc s.cfg fid args.length <;> rfl

@[simp] theorem recognised_chk (c : Config) (chk : Byte) (p : List Byte) : (recognised c chk p).chk = chk := by
  cases p with
  | nil => rfl
  | cons fid args => exact discriminated_chk c fid args.length rfl

/-- A recognised payload is a kind's Frame ID and its argument bytes, which are the outputs. -/
theorem recognised_eq_ok {c : Config} {chk kout chk' : Byte} {p out : List Byte}
    (h : recognised c chk p = .ok kout chk' out) :
    p = kout :: out ∧ ∃ k : Kind, kout = k.fid ∧ out.length = c.arglenOf k := by
  cases p with
  | nil => cases h
  | cons fid args =>
    obtain ⟨hs, hk⟩ := discriminated_eq_ok h
    cases hs
    exact ⟨rfl, hk⟩

/-- Two bytes or more, of which the first is the delimiter, are a frame: delimiter, payload, checksum byte
(30_encoding.md R61). -/
theorem frame_of_delimiter {w : List Byte} (hl : 2 ≤ w.length) (hd : w.head? = some delimiter) :
    ∃ p c, w = delimiter :: (p ++ [c]) := by
  obtain ⟨rest, rfl⟩ : ∃ rest, w = delimiter :: rest := List.head?_eq_some_iff.1 hd
  have hne : rest ≠ [] := by rintro rfl; simp at hl
  exact ⟨rest.dropLast, rest.getLast hne, by rw [List.dropLast_append_getLast hne]⟩

theorem validate_of_short {w : List Byte} (h : w.length < 2) : validate w = .error (.tooShort, 0x00) := by
  rw [validate, if_pos h]

theorem validate_of_head_ne {w : List Byte} (hl : 2 ≤ w.length) (hd : w.head? ≠ some delimiter) :
    validate w = .error (.badDelimiter, 0x00) := by
  obtain _ | ⟨b, rest⟩ := w
  · simp at hl
  · rw [validate, if_neg (by omega), if_pos (by simpa using hd)]

/-- On a frame the validator compares the checksum byte with the fold of the bytes before it (42_decode.md R112). -/
theorem validate_frame (p : List Byte) (c : Byte) :
    validate (delimiter :: (p ++ [c])) =
      if xorfold (delimiter :: p) ≠ c then .error (.badChecksum, xorfold (delimiter :: p))
      else .ok (p, xorfold (delimiter :: p)) := by
  have hbody : (delimiter :: (p ++ [c])).take (p.length + 1) = delimiter :: p := by simp
  have hlast : (delimiter :: (p ++ [c])).getLastD 0 = c := by
    rw [List.getLastD_eq_getLast?, ← List.cons_append, List.getLast?_concat, Option.getD_some]
  have hmid : ((delimiter :: (p ++ [c])).drop 1).take p.length = p := by simp
  have hlen : (delimiter :: (p ++ [c])).length = p.length + 2 := by simp
  rw [validate, if_neg (by omega), if_neg (by simp), hlast, hlen]
  simp only [Nat.add_sub_cancel, Nat.add_succ_sub_one, hbody, hmid]

/-- The three ways the validator can go: too short, wrong delimiter, a frame. -/
theorem validate_cases (w : List Byte) :
    (w.length < 2 ∧ validate w = .error (.tooShort, 0x00))
      ∨ (2 ≤ w.length ∧ w.head? ≠ some delimiter ∧ validate w = .error (.badDelimiter, 0x00))
      ∨ ∃ p c, w = delimiter :: (p ++ [c]) := by
  by_cases hl : w.length < 2
  · exact .inl ⟨hl, validate_of_short hl⟩
  · by_cases hd : w.head? = some delimiter
    · exact .inr (.inr (frame_of_delimiter (by omega) hd))
    · exact .inr (.inl ⟨by omega, hd, validate_of_head_ne (by omega) hd⟩)

/-- Validated bytes are the delimiter, the payload and the right checksum byte. -/
theorem validate_eq_ok {w p : List Byte} {c : Byte} (h : validate w = .ok (p, c)) :
    w = delimiter :: (p ++ [c]) ∧ xorfold (delimiter :: p) = c := by
  obtain ⟨-, he⟩ | ⟨-, -, he⟩ | ⟨p', c', rfl⟩ := validate_cases w
  · cases he.symm.trans h
  · cases he.symm.trans h
  · rw [validate_frame] at h
    split at h
    · cases h
    · rename_i hc
      cases h
      exact ⟨by rw [of_not_not hc], rfl⟩

/-- The result of VALID, and of `next` on the payload and the checksum of a valid frame (42_decode.md R112,
44_pipeline.md R163). -/
def validated (w : List Byte) (next : List Byte → Byte → CommandResult) : CommandResult :=
  match validate w with
  | .error (e, c) => .error e c
  | .ok (p, c) => next p c

theorem validated_eq_ok {w : List Byte} {next : List Byte → Byte → CommandResult} {kout chk : Byte} {out : List Byte}
    (h : validated w next = .ok kout chk out) :
    ∃ p c, w = delimiter :: (p ++ [c]) ∧ xorfold (delimiter :: p) = c ∧ next p c = .ok kout chk out := by
  unfold validated at h
  cases hv : validate w with
  | error ec => simp [hv] at h
  | ok pc =>
    obtain ⟨p, c⟩ := pc
    exact ⟨p, c, (validate_eq_ok hv).1, (validate_eq_ok hv).2, by simpa [hv] using h⟩

/-- Bytes that fail the length or the delimiter check report no checksum (10_state.md R18). -/
theorem validated_chk_of_not_frame {w : List Byte} (next : List Byte → Byte → CommandResult)
    (h : w.length < 2 ∨ w.head? ≠ some delimiter) : (validated w next).chk = 0x00 := by
  unfold validated
  obtain ⟨-, he⟩ | ⟨-, -, he⟩ | ⟨p, c, rfl⟩ := validate_cases w
  · rw [he]; rfl
  · rw [he]; rfl
  · simp at h

/-- A frame reports its expected checksum, right or wrong, when what follows VALID keeps it (10_state.md R18). -/
theorem validated_chk_of_frame {w : List Byte} {next : List Byte → Byte → CommandResult}
    (hn : ∀ p c, (next p c).chk = c) (hl : 2 ≤ w.length) (hd : w.head? = some delimiter) :
    (validated w next).chk = xorfold w.dropLast := by
  obtain ⟨p, c, rfl⟩ := frame_of_delimiter hl hd
  have hbody : (delimiter :: (p ++ [c])).dropLast = delimiter :: p := by
    rw [← List.cons_append, List.dropLast_concat]
  unfold validated
  rw [validate_frame, hbody]
  by_cases hc : xorfold (delimiter :: p) = c
  · rw [if_neg (not_not_intro hc)]
    exact hn p _
  · rw [if_pos hc]
    rfl

/-- 41_encode.md R102: two bytes of overhead. -/
theorem wireEncode_length (p : List Byte) : (wireEncode p).length = p.length + 2 := by
  simp [wireEncode]

/-- The last byte of a wire frame is its checksum. -/
theorem wireEncode_getLast? (p : List Byte) : (wireEncode p).getLast? = some (checksum p) :=
  List.getLast?_concat

/-! ### The commands -/

/-- The seven commands that complete. -/
theorem Instr.cmd_cases {i : Instr} (hf : i.format = .cmd) (hn : i ≠ .nop) :
    i = .csum ∨ i = .enc ∨ i = .dec ∨ i = .ser ∨ i = .des ∨ i = .tx ∨ i = .rx := by
  cases i <;> simp [Instr.format] at hf hn ⊢

/-- The result of a command, a function of the build, `KIN` and the input sequence (10_state.md R10). NOP and the rows of
the other formats read no input sequence, and no lemma gives this value a meaning for them. -/
def commandResult (c : Config) (kin : Byte) (i : Instr) (bytes : List Byte) : CommandResult :=
  match i with
  | .csum => .ok 0xFF (xorfold bytes) []
  | .enc => .ok 0xFF (checksum bytes) (wireEncode bytes)
  | .dec => validated bytes fun p e => .ok 0xFF e p
  | .ser => discriminated c kin bytes.length 0x00 (.ok 0xFF 0x00 (kin :: bytes))
  | .des => recognised c 0x00 bytes
  | .tx => discriminated c kin bytes.length 0x00 (.ok 0xFF (checksum (kin :: bytes)) (wireEncode (kin :: bytes)))
  | .rx => validated bytes fun p e => recognised c e p
  | _ => .ok 0xFF 0x00 []

/-- A command over a written input delivers the result that its body gives for that input. -/
theorem withInput_deliver {s : State} {f : List Byte → State} {bytes : List Byte} {acc : Byte} {idx : Nat}
    {r : CommandResult} (hin : s.inputIs bytes) (h : f bytes = (s.ran acc idx).deliver r) :
    withInput s f = .next ((s.ran acc idx).deliver r) :=
  (withInput_of_inputIs s f bytes hin).trans (congrArg _ h)

/-- A command over a written input delivers its result, over the hidden registers its loop leaves, which the build, `KIN`
and the input fix too (10_state.md R10). -/
theorem exec_command {i : Instr} (hf : i.format = .cmd) (hn : i ≠ .nop) (c : Config) (kin : Byte) (bytes : List Byte) :
    ∃ acc idx, ∀ s : State, s.cfg = c → s.kin = kin → s.inputIs bytes →
      exec i s = .next ((s.ran acc idx).deliver (commandResult c kin i bytes)) := by
  rcases Instr.cmd_cases hf hn with rfl | rfl | rfl | rfl | rfl | rfl | rfl
  · exact ⟨xorfold bytes, bytes.length, fun s _ _ hin => withInput_deliver hin rfl⟩
  · exact ⟨checksum bytes, bytes.length, fun s _ _ hin => withInput_deliver hin rfl⟩
  · rcases hv : validate bytes with ⟨e, v⟩ | ⟨p, v⟩ <;>
      exact ⟨v, validatedBytes bytes, fun s _ _ hin => withInput_deliver hin (by
        simp only [commandResult, State.unframe, validated, hv]; rfl)⟩
  · rcases hd : disc c kin bytes.length with e | k
    · exact ⟨0x00, 0, fun s hc hk hin => withInput_deliver hin (by
        simp only [commandResult, discriminated, hc, hk, hd]; rfl)⟩
    · exact ⟨0x00, bytes.length, fun s hc hk hin => withInput_deliver hin (by
        simp only [commandResult, discriminated, hc, hk, hd]; rfl)⟩
  · exact ⟨0x00, discriminatedBytes c bytes, fun s hc _ hin => withInput_deliver hin (by
      simp only [commandResult, State.discriminate_eq, State.ran_cfg, State.ran_acc, hc])⟩
  · rcases hd : disc c kin bytes.length with e | k
    · exact ⟨0x00, 0, fun s hc hk hin => withInput_deliver hin (by
        simp only [commandResult, discriminated, hc, hk, hd]; rfl)⟩
    · exact ⟨checksum (kin :: bytes), bytes.length, fun s hc hk hin => withInput_deliver hin (by
        simp only [commandResult, discriminated, hc, hk, hd]; rfl)⟩
  · rcases hv : validate bytes with ⟨e, v⟩ | ⟨p, v⟩
    · exact ⟨v, validatedBytes bytes, fun s _ _ hin => withInput_deliver hin (by
        simp only [commandResult, validated, hv]; rfl)⟩
    · exact ⟨v, validatedBytes bytes, fun s hc _ hin => withInput_deliver hin (by
        simp only [commandResult, validated, hv, State.discriminate_eq, State.ran_cfg, State.ran_acc, hc])⟩

/-- A command over an input that is not all written is refused (20_memory.md R54). -/
theorem exec_command_of_not_written {i : Instr} (hf : i.format = .cmd) (hn : i ≠ .nop) {s : State}
    (h : ¬ s.inputWritten) : exec i s = .refused .inputNotWritten := by
  rcases Instr.cmd_cases hf hn with rfl | rfl | rfl | rfl | rfl | rfl | rfl <;> exact withInput_of_not_written s _ h

/-- A frame that RX accepts is the delimiter, the kind's Frame ID, its argument bytes and a checksum byte; the kind and
the argument bytes are the outputs (44_pipeline.md R163). -/
theorem commandResult_rx_eq_ok {c : Config} {kin kout chk : Byte} {bytes out : List Byte}
    (h : commandResult c kin .rx bytes = .ok kout chk out) :
    (∃ v, bytes = delimiter :: kout :: (out ++ [v])) ∧ ∃ k : Kind, kout = k.fid ∧ out.length = c.arglenOf k := by
  obtain ⟨p, v, rfl, -, hp⟩ := validated_eq_ok h
  obtain ⟨rfl, hk⟩ := recognised_eq_ok hp
  exact ⟨⟨v, rfl⟩, hk⟩

/-- Only DES and RX report a kind (10_state.md R15). -/
theorem commandResult_kout {i : Instr} (hf : i.format = .cmd) (hn : i ≠ .nop) (hi : ¬ (i = .des ∨ i = .rx)) (c : Config)
    (kin : Byte) (bytes : List Byte) : (commandResult c kin i bytes).kout = 0xFF := by
  cases hr : commandResult c kin i bytes with
  | error e chk => rfl
  | ok kout chk out =>
    rcases Instr.cmd_cases hf hn with rfl | rfl | rfl | rfl | rfl | rfl | rfl
    · cases hr
      rfl
    · cases hr
      rfl
    · obtain ⟨p, v, -, -, hp⟩ := validated_eq_ok hr
      cases hp
      rfl
    · cases (discriminated_eq_ok hr).1
      rfl
    · exact absurd (.inl rfl) hi
    · cases (discriminated_eq_ok hr).1
      rfl
    · exact absurd (.inr rfl) hi

/-- The output sequence is at most three bytes longer than the input (10_state.md R17). -/
theorem commandResult_out_length {i : Instr} (hf : i.format = .cmd) (hn : i ≠ .nop) (c : Config) (kin : Byte)
    (bytes : List Byte) : (commandResult c kin i bytes).out.length ≤ bytes.length + 3 := by
  cases hr : commandResult c kin i bytes with
  | error e chk => exact Nat.zero_le _
  | ok kout chk out =>
    rw [CommandResult.out_ok]
    rcases Instr.cmd_cases hf hn with rfl | rfl | rfl | rfl | rfl | rfl | rfl
    · cases hr
      exact Nat.zero_le _
    · cases hr
      exact (wireEncode_length bytes).le.trans (Nat.le_succ _)
    · obtain ⟨p, v, rfl, -, hp⟩ := validated_eq_ok hr
      cases hp
      simp only [List.length_cons, List.length_append]
      omega
    · cases (discriminated_eq_ok hr).1
      exact Nat.add_le_add_left (by decide) _
    · obtain ⟨rfl, -⟩ := recognised_eq_ok hr
      exact (Nat.le_succ _).trans (Nat.le_add_right _ _)
    · cases (discriminated_eq_ok hr).1
      exact (wireEncode_length (kin :: bytes)).le
    · obtain ⟨⟨v, rfl⟩, -⟩ := commandResult_rx_eq_ok hr
      simp only [List.length_cons, List.length_append]
      omega

/-- `KIN` matters to SER and TX alone (10_state.md R10). -/
theorem commandResult_kin_congr {i : Instr} {kin kin' : Byte} (h : kin = kin' ∨ (i ≠ .ser ∧ i ≠ .tx)) (c : Config)
    (bytes : List Byte) : commandResult c kin i bytes = commandResult c kin' i bytes := by
  obtain rfl | ⟨hser, htx⟩ := h
  · rfl
  · cases i
    case ser => exact absurd rfl hser
    case tx => exact absurd rfl htx
    all_goals rfl

/-! ### What the host finds after a command -/

/-- The host finds a result: its `STATUS`, `KOUT`, `CHK` and output sequence, and zeros above it. -/
def State.showsResult (t : State) (r : CommandResult) : Prop := t.shows (statusWord r.code) r.kout r.chk r.out

theorem State.showsResult.kout {t : State} {r : CommandResult} (h : t.showsResult r) : t.kout = r.kout := by
  obtain ⟨-, hk, -⟩ := h
  exact hk

theorem State.showsResult.chk {t : State} {r : CommandResult} (h : t.showsResult r) : t.chk = r.chk := by
  obtain ⟨-, -, hc, -⟩ := h
  exact hc

theorem State.showsResult.olen {t : State} {r : CommandResult} (h : t.showsResult r) : t.olen.toNat = r.out.length := by
  obtain ⟨-, -, -, hl, -⟩ := h
  exact hl

/-- A success stands in the output registers as it is. -/
theorem State.showsResult.eq_ok {t : State} {r : CommandResult} (h : t.showsResult r) (hst : t.status = 0x80) :
    r = .ok t.kout t.chk t.output := by
  obtain ⟨hs, hk, hc, -, ho, -⟩ := h
  rw [hk, hc, ho]
  exact r.eq_ok_of_status (hs.symm.trans hst)

/-- A failure leaves no kind and no output (60_exceptions.md R207). -/
theorem State.showsResult.eq_error {t : State} {r : CommandResult} (h : t.showsResult r) (hst : t.status ≠ 0x80) :
    (∃ e, r = .error e t.chk) ∧ t.kout = 0xFF ∧ t.olen.toNat = 0 := by
  obtain ⟨hs, hk, hc, hl, -, -⟩ := h
  obtain ⟨e, he⟩ := r.eq_error_of_status (hs ▸ hst)
  exact ⟨⟨e, hc ▸ he⟩, by rw [hk, he]; rfl, by rw [hl, he]; rfl⟩

theorem State.output_length (s : State) : s.output.length = s.olen.toNat := by
  simp [State.output]

/-- `OLEN` has a bit more than `ILEN`, which is enough for three bytes more (10_state.md R17). -/
theorem Config.nmax_add_three_lt {c : Config} (h : c.wf) : c.nmax + 3 < 2 ^ (c.lw + 1) := by
  obtain ⟨hlw, -⟩ := h
  have h8 : 2 ^ 3 ≤ 2 ^ c.lw := Nat.pow_le_pow_right (by decide) hlw
  rw [Config.nmax, Nat.pow_succ]
  omega

/-- An output sequence of that length fits the port's 16 bits. -/
theorem Config.nmax_add_three_lt_port {c : Config} (h : c.wf) : c.nmax + 3 < 2 ^ 16 := by
  have hlt := Config.nmax_add_three_lt h
  obtain ⟨-, hlw, -⟩ := h
  exact hlt.trans_le (Nat.pow_le_pow_right (by decide) (Nat.succ_le_succ hlw))

/-- A command over a written input that fits the buffer shows its result. -/
theorem exec_command_shows {i : Instr} (hf : i.format = .cmd) (hn : i ≠ .nop) {s : State} (hw : s.cfg.wf)
    (hl : s.ilen.toNat ≤ s.cfg.nmax) {bytes : List Byte} (hin : s.inputIs bytes) :
    ∃ t, exec i s = .next t ∧ t.showsResult (commandResult s.cfg s.kin i bytes) := by
  obtain ⟨acc, idx, h⟩ := exec_command hf hn s.cfg s.kin bytes
  refine ⟨_, h s rfl rfl hin, State.deliver_shows _ _ ?_⟩
  have hout := commandResult_out_length hf hn s.cfg s.kin bytes
  have hlen : bytes.length = s.ilen.toNat := hin.1
  have hport := Config.nmax_add_three_lt_port hw
  omega

/-- The next state after a command over a written input shows its result. -/
theorem exec_command_next_of_inputIs {i : Instr} (hf : i.format = .cmd) (hn : i ≠ .nop) {s t : State} (hs : s.Sized)
    {bytes : List Byte} (hin : s.inputIs bytes) (h : exec i s = .next t) :
    t.showsResult (commandResult s.cfg s.kin i bytes) := by
  obtain ⟨u, hu, hsh⟩ := exec_command_shows hf hn hs.cfg hs.ilen hin
  cases hu.symm.trans h
  exact hsh

/-- Whatever a command answers as a next state shows its result on the input that stood in the buffer. -/
theorem exec_command_next {i : Instr} (hf : i.format = .cmd) (hn : i ≠ .nop) {s t : State} (hs : s.Sized)
    (h : exec i s = .next t) :
    ∃ bytes, s.inputIs bytes ∧ t.showsResult (commandResult s.cfg s.kin i bytes) := by
  cases hb : s.input with
  | none =>
    rw [exec_command_of_not_written hf hn (s.input_eq_none.1 hb)] at h
    cases h
  | some bytes =>
    have hin := (s.input_eq_some bytes).1 hb
    exact ⟨bytes, hin, exec_command_next_of_inputIs hf hn hs hin h⟩

/-- The byte of the input sequence at an index stands in `IBUF` there. -/
theorem State.inputIs.read {s : State} {bytes : List Byte} (h : s.inputIs bytes) {k : Nat} (hk : k < bytes.length) :
    Memory.read s.ibuf k = some bytes[k] := by
  obtain ⟨hlen, hread⟩ := h
  rw [hread k (hlen ▸ hk), List.getElem?_eq_getElem hk]

/-- The input sequence is `ILEN` and the bytes below it, and nothing else (10_state.md R10). -/
theorem State.inputIs_congr {s t : State} (hl : s.ilen = t.ilen)
    (hr : ∀ k, k < s.ilen.toNat → Memory.read s.ibuf k = Memory.read t.ibuf k) {bytes : List Byte} (h : s.inputIs bytes) :
    t.inputIs bytes := by
  have hn : t.n = s.ilen.toNat := (congrArg BitVec.toNat hl).symm
  obtain ⟨hlen, hread⟩ := h
  rw [State.inputIs, hn]
  exact ⟨hlen, fun k hk => (hr k hk).symm.trans (hread k hk)⟩

/-- Whether the input is written is a matter of `ILEN` and the bytes below it too. -/
theorem State.inputWritten_congr {s t : State} (hl : s.ilen = t.ilen)
    (hr : ∀ k, k < s.ilen.toNat → Memory.read s.ibuf k = Memory.read t.ibuf k) : s.inputWritten ↔ t.inputWritten := by
  rw [State.inputWritten, State.inputWritten, State.n, State.n, ← hl]
  exact forall₂_congr fun k hk => by rw [hr k hk]

/-- A host write to `STATUS`, `KOUT`, `OLEN` or `CHK` is ignored (20_memory.md R42). -/
theorem State.hostWrite_output_register {addr : Nat} (h : addr = 1 ∨ addr = 3 ∨ addr = 5 ∨ addr = 6) (v : PortWord)
    (s : State) : State.hostWrite addr v s = .next s := by
  rcases h with rfl | rfl | rfl | rfl <;> rfl

/-! ### The statements about the registers (10_state.md) -/

/-- Settles O32: on a written input both states show the result that the build, `KIN` and the input give, and an
unwritten byte below `ILEN` is unwritten in both. -/
theorem commandsDependOnTheirInputsOnly : Obligations.CommandsDependOnTheirInputsOnly := by
  intro s1 s2 i hf hn hcfg hilen hw hl hread hkin
  cases hb : s1.input with
  | none =>
    have hnot := s1.input_eq_none.1 hb
    exact .inl ⟨exec_command_of_not_written hf hn hnot,
      exec_command_of_not_written hf hn (mt (State.inputWritten_congr hilen hread).2 hnot)⟩
  | some bytes =>
    have hin := (s1.input_eq_some bytes).1 hb
    obtain ⟨t1, ht1, hsh1⟩ := exec_command_shows hf hn hw hl hin
    obtain ⟨t2, ht2, hsh2⟩ :=
      exec_command_shows hf hn (hcfg ▸ hw) (hcfg ▸ hilen ▸ hl) (State.inputIs_congr hilen hread hin)
    rw [← hcfg, ← commandResult_kin_congr hkin] at hsh2
    exact .inr ⟨t1, t2, ht1, ht2, State.shows.sameOutputs hsh1 hsh2⟩

/-- Settles O34: a success stands in the output registers, and DES and RX succeed only on the Frame ID of a kind. -/
theorem koutIsAKindOnlyAfterAnAcceptedFrame : Obligations.KoutIsAKindOnlyAfterAnAcceptedFrame := by
  intro s t i hs hf hn h
  obtain ⟨bytes, hin, hsh⟩ := exec_command_next hf hn hs h
  refine ⟨?_, ?_, ?_, ?_, ?_, fun v => State.hostWrite_output_register (by decide) v s⟩
  · rintro hst rfl
    obtain ⟨rfl, -⟩ := recognised_eq_ok (hsh.eq_ok hst)
    exact hin.read (Nat.succ_pos _)
  · rintro hst rfl
    obtain ⟨⟨v, rfl⟩, -⟩ := commandResult_rx_eq_ok (hsh.eq_ok hst)
    exact hin.read (Nat.succ_lt_succ (Nat.succ_pos _))
  · rintro ⟨hst, rfl | rfl⟩ <;> rw [← State.output_length]
    · exact (recognised_eq_ok (hsh.eq_ok hst)).2
    · exact (commandResult_rx_eq_ok (hsh.eq_ok hst)).2
  · intro hnot
    by_cases hst : t.status = 0x80
    · rw [hsh.kout]
      exact commandResult_kout hf hn (fun hi => hnot ⟨hst, hi⟩) _ _ _
    · exact (hsh.eq_error hst).2.1
  · intro k
    cases k <;> decide

/-- Settles O35: `OLEN` is the length of the result's output sequence. -/
theorem olenIsBounded : Obligations.OlenIsBounded := by
  intro s t i hs hf hn h
  obtain ⟨bytes, hin, hsh⟩ := exec_command_next hf hn hs h
  have hlen : bytes.length = s.ilen.toNat := hin.1
  have hle : t.olen.toNat ≤ s.ilen.toNat + 3 := by
    rw [hsh.olen, ← hlen]
    exact commandResult_out_length hf hn _ _ _
  have hnmax : t.olen.toNat ≤ s.cfg.nmax + 3 := hle.trans (Nat.add_le_add_right hs.ilen 3)
  refine ⟨?_, hle, hnmax, hnmax.trans_lt (Config.nmax_add_three_lt hs.cfg), ?_, State.output_length t,
    fun v => State.hostWrite_output_register (by decide) v s⟩
  · rintro (hst | rfl)
    · exact (hsh.eq_error hst).2.2
    · exact hsh.olen
  · rintro rfl hst
    obtain ⟨hok, -⟩ := discriminated_eq_ok (hsh.eq_ok hst)
    injection hok with _ _ hout
    rw [← State.output_length, ← hout, wireEncode_length, List.length_cons, hlen]

/-- Settles O36: `CHK` is the checksum that the result of each command reports. -/
theorem chkHoldsTheChecksumComputed : Obligations.ChkHoldsTheChecksumComputed := by
  intro s t i bytes hs hin h
  have hsh : i.format = .cmd → i ≠ .nop → t.showsResult (commandResult s.cfg s.kin i bytes) :=
    fun hf hn => exec_command_next_of_inputIs hf hn hs hin h
  refine ⟨?_, ?_, ?_, ?_, ?_, ?_, ?_, fun v => State.hostWrite_output_register (by decide) v s⟩
  · rintro rfl
    exact (hsh rfl (by decide)).chk
  · rintro (rfl | rfl) hst
    · injection (hsh rfl (by decide)).eq_ok hst with _ hc hout
      rw [← hc, ← hout, wireEncode_getLast?]
    · obtain ⟨hok, -⟩ := discriminated_eq_ok ((hsh rfl (by decide)).eq_ok hst)
      injection hok with _ hc hout
      rw [← hc, ← hout, wireEncode_getLast?]
  · rintro (rfl | rfl) hl hd <;> rw [(hsh rfl (by decide)).chk]
    · exact validated_chk_of_frame (fun _ _ => rfl) hl hd
    · exact validated_chk_of_frame (fun p v => recognised_chk s.cfg v p) hl hd
  · rintro (rfl | rfl) hnot <;> rw [(hsh rfl (by decide)).chk]
    · exact validated_chk_of_not_frame _ hnot
    · exact validated_chk_of_not_frame _ hnot
  · rintro (rfl | rfl) <;> rw [(hsh rfl (by decide)).chk]
    · exact discriminated_chk s.cfg s.kin bytes.length rfl
    · exact recognised_chk s.cfg 0x00 bytes
  · rintro rfl hst
    obtain ⟨⟨e, he⟩, -⟩ := (hsh rfl (by decide)).eq_error hst
    exact discriminated_eq_error he
  · intro hf hn x
    obtain ⟨acc, idx, hx⟩ := exec_command hf hn s.cfg s.kin bytes
    rw [hx s rfl rfl hin, hx { s with chk := x } rfl rfl hin]
    rfl

/-- Settles O13: every register of a build's reset state is written out in its definition, and `OLEN` is 0. -/
theorem resetStateHasTheSpecsValues : Obligations.ResetStateHasTheSpecsValues :=
  fun c => ⟨State.resetWith c, rfl, rfl, show (0x00 : Byte).getLsbD 7 = false by decide, rfl, rfl, rfl, rfl, rfl, rfl, rfl,
    fun _ => rfl, fun j => State.obufRead_of_ge _ j (Nat.zero_le j), rfl, rfl, rfl⟩

end Sys2Proof.Machine

/-! SUPPORT. The host port: where each range of the address map begins and ends, and what a read and a write of each
location do (20_memory.md R42 to R44). -/

namespace Sys2Proof.Machine

/-! ### The address map -/

theorem obufBase_eq_two_mul_ibufBase (c : Config) : obufBase c = 2 * ibufBase c := Nat.pow_succ'

theorem Config.nmax_lt_ibufBase (c : Config) : c.nmax < ibufBase c := by
  have hpos : 0 < 2 ^ c.lw := Nat.two_pow_pos c.lw
  rw [Config.nmax, ibufBase, Nat.pow_succ]
  omega

/-- The eight registers stand below `IBUF` in every build. -/
theorem Config.eight_le_ibufBase {c : Config} (h : c.wf) : 8 ≤ ibufBase c := by
  obtain ⟨hlw, -⟩ := h
  have hpow : 2 ^ 3 ≤ 2 ^ (c.lw + 1) := Nat.pow_le_pow_right (by decide) (by omega)
  exact hpow

/-- Above the registers only the four ends of the two buffers count. -/
theorem locate_of_eight_le {a : Nat} (h : 8 ≤ a) (c : Config) :
    locate c a =
      if a < ibufBase c then .unmapped
      else if a < ibufBase c + c.nmax then .ibuf (a - ibufBase c)
      else if a < obufBase c then .unmapped
      else if a < obufBase c + c.nmax + 3 then .obuf (a - obufBase c)
      else .unmapped := by
  obtain ⟨a, rfl⟩ := Nat.exists_eq_add_of_le' h
  rfl

theorem locate_below_ibuf {c : Config} {a : Nat} (h8 : 8 ≤ a) (h : a < ibufBase c) : locate c a = .unmapped := by
  rw [locate_of_eight_le h8, if_pos h]

theorem locate_ibuf {c : Config} (hc : c.wf) {i : Nat} (h : i < c.nmax) : locate c (ibufBase c + i) = .ibuf i := by
  have h8 := Config.eight_le_ibufBase hc
  rw [locate_of_eight_le (by omega), if_neg (by omega), if_pos (by omega), Nat.add_sub_cancel_left]

theorem locate_between_buffers {c : Config} (hc : c.wf) {a : Nat} (hl : ibufBase c + c.nmax ≤ a) (hu : a < obufBase c) :
    locate c a = .unmapped := by
  have h8 := Config.eight_le_ibufBase hc
  rw [locate_of_eight_le (by omega), if_neg (by omega), if_neg (by omega), if_pos hu]

theorem locate_obuf {c : Config} (hc : c.wf) {j : Nat} (h : j < c.nmax + 3) : locate c (obufBase c + j) = .obuf j := by
  have h8 := Config.eight_le_ibufBase hc
  have hn := Config.nmax_lt_ibufBase c
  have ho := obufBase_eq_two_mul_ibufBase c
  rw [locate_of_eight_le (by omega), if_neg (by omega), if_neg (by omega), if_neg (by omega), if_pos (by omega),
    Nat.add_sub_cancel_left]

theorem locate_above_obuf {c : Config} (hc : c.wf) {a : Nat} (h : obufBase c + c.nmax + 3 ≤ a) :
    locate c a = .unmapped := by
  have h8 := Config.eight_le_ibufBase hc
  have hn := Config.nmax_lt_ibufBase c
  have ho := obufBase_eq_two_mul_ibufBase c
  rw [locate_of_eight_le (by omega), if_neg (by omega), if_neg (by omega), if_neg (by omega), if_neg (by omega)]

/-- What lies above `IBUF` is the output buffer and unmapped addresses, neither of them writable. -/
theorem locate_above_ibuf {c : Config} (hc : c.wf) {a : Nat} (h : ibufBase c + c.nmax ≤ a) :
    locate c a = .unmapped ∨ ∃ j, locate c a = .obuf j := by
  rcases Nat.lt_or_ge a (obufBase c) with hb | hb
  · exact .inl (locate_between_buffers hc h hb)
  · rcases Nat.lt_or_ge a (obufBase c + c.nmax + 3) with hlt | hge
    · obtain ⟨j, rfl⟩ := Nat.exists_eq_add_of_le hb
      exact .inr ⟨j, locate_obuf hc (by omega)⟩
    · exact .inl (locate_above_obuf hc hge)

/-! ### Reads -/

/-- A byte zero-extended to the port's 16 bits keeps its value (20_memory.md R44). -/
theorem toNat_byte_setWidth_port (b : Byte) : (b.setWidth 16 : PortWord).toNat = b.toNat :=
  BitVec.toNat_setWidth_of_le (by decide)

theorem State.hostRead_unmapped {s : State} {a : Nat} (h : locate s.cfg a = .unmapped) : s.hostRead a = 0 := by
  rw [State.hostRead, h]

theorem State.hostRead_ibuf {s : State} {a i : Nat} (h : locate s.cfg a = .ibuf i) : s.hostRead a = 0 := by
  rw [State.hostRead, h]

theorem State.hostRead_obuf {s : State} {a j : Nat} (h : locate s.cfg a = .obuf j) :
    s.hostRead a = (s.obufRead j).setWidth 16 := by
  rw [State.hostRead, h]

theorem State.toNat_obufRead (s : State) (j : Nat) :
    (s.obufRead j).toNat = if j < s.olen.toNat then (s.obufCell j).toNat else 0 := by
  rw [State.obufRead, apply_ite BitVec.toNat]
  rfl

/-! ### Writes -/

theorem State.hostWrite_ibuf {s : State} {a i : Nat} (h : locate s.cfg a = .ibuf i) (v : PortWord) :
    State.hostWrite a v s = .next (s.setIbuf i v) := by
  rw [State.hostWrite, h]

theorem State.hostWrite_obuf {s : State} {a j : Nat} (h : locate s.cfg a = .obuf j) (v : PortWord) :
    State.hostWrite a v s = .next s := by
  rw [State.hostWrite, h]

theorem State.hostWrite_unmapped {s : State} {a : Nat} (h : locate s.cfg a = .unmapped) (v : PortWord) :
    State.hostWrite a v s = .next s := by
  rw [State.hostWrite, h]

/-- A command is decoded from the low three bits of the value (10_state.md R12). -/
theorem decodeCmd_congr {v w : PortWord} (h : v.toNat % 8 = w.toNat % 8) : decodeCmd v = decodeCmd w := by
  have hlow : (v.extractLsb' 0 3).toNat = (w.extractLsb' 0 3).toNat := by
    simpa only [BitVec.extractLsb'_toNat, Nat.shiftRight_zero] using h
  rw [decodeCmd, decodeCmd, hlow]

/-- A value cut to `LW` bits fits the port, so `ILEN` holds its low `LW` bits (20_memory.md R44). -/
theorem State.toNat_setIlen_ilen {s : State} (hc : s.cfg.wf) (v : PortWord) :
    (s.setIlen v).ilen.toNat = v.toNat % 2 ^ s.cfg.lw := by
  obtain ⟨-, hlw, -⟩ := hc
  rw [State.setIlen_ilen, BitVec.toNat_setWidth_of_le (by omega), BitVec.toNat_setWidth]

/-- A write to a location that stores nothing is ignored (20_memory.md R42, R43). -/
theorem State.hostWrite_ignored {s : State} (hc : s.cfg.wf) {a : Nat}
    (h : a = 1 ∨ a = 3 ∨ a = 5 ∨ a = 6 ∨ a = 7 ∨ (8 ≤ a ∧ a < ibufBase s.cfg) ∨ ibufBase s.cfg + s.cfg.nmax ≤ a)
    (v : PortWord) : State.hostWrite a v s = .next s := by
  rcases h with rfl | rfl | rfl | rfl | rfl | ⟨h8, hlt⟩ | hge
  iterate 5 rfl
  · exact State.hostWrite_unmapped (locate_below_ibuf h8 hlt) v
  · rcases locate_above_ibuf hc hge with hu | ⟨j, hj⟩
    · exact State.hostWrite_unmapped hu v
    · exact State.hostWrite_obuf hj v

/-! ### The statement about the address map (20_memory.md) -/

/-- Settles O10: the address names a location, the location says what a read returns and what a write stores. -/
theorem addressMapReadsAndWrites : Obligations.AddressMapReadsAndWrites := by
  intro s hc
  constructor
  · refine ⟨rfl, toNat_byte_setWidth_port _, toNat_byte_setWidth_port _, toNat_byte_setWidth_port _, rfl, rfl,
      toNat_byte_setWidth_port _, rfl, fun a h8 h => State.hostRead_unmapped (locate_below_ibuf h8 h),
      fun i h => State.hostRead_ibuf (locate_ibuf hc h),
      fun a hl hu => State.hostRead_unmapped (locate_between_buffers hc hl hu), fun j h => ?_,
      fun a h => State.hostRead_unmapped (locate_above_obuf hc h)⟩
    calc (s.hostRead (obufBase s.cfg + j)).toNat
        = ((s.obufRead j).setWidth 16 : PortWord).toNat := by rw [State.hostRead_obuf (locate_obuf hc h)]
      _ = (s.obufRead j).toNat := toNat_byte_setWidth_port _
      _ = if j < s.olen.toNat then (s.obufCell j).toNat else 0 := State.toNat_obufRead s j
  · intro v
    have hcmd : v.toNat % 8 = (BitVec.ofNat 16 (v.toNat % 8)).toNat % 8 := by
      rw [BitVec.toNat_ofNat]
      omega
    exact ⟨⟨rfl, decodeCmd_congr hcmd⟩,
      ⟨s.setKin v, rfl, rfl, BitVec.toNat_setWidth _ _⟩,
      ⟨s.setIlen v, rfl, rfl, State.toNat_setIlen_ilen hc v⟩,
      fun i h => ⟨s.setIbuf i v, v.setWidth 8, State.hostWrite_ibuf (locate_ibuf hc h) v, rfl,
        Memory.read_write_same _ _ _, BitVec.toNat_setWidth _ _, fun j hj => Memory.read_write_other _ _ _ _ hj⟩,
      fun a h => State.hostWrite_ignored hc h v⟩

end Sys2Proof.Machine

/-! SUPPORT. The checksum: the equations and laws of XORFOLD, and what a completion changes (40_checksum.md). -/

namespace Sys2Proof.Machine

/-! ### The fold -/

@[simp] theorem xorfold_nil : xorfold [] = 0x00 := rfl

/-- What the seed is exclusive-ored with, the fold is. -/
theorem xorfoldFrom_xor (acc b : Byte) (s : List Byte) : xorfoldFrom (acc ^^^ b) s = acc ^^^ xorfoldFrom b s := by
  induction s generalizing b with
  | nil => rfl
  | cons c s ih => rw [xorfoldFrom, BitVec.xor_assoc, ih, xorfoldFrom]

@[simp] theorem xorfold_cons (b : Byte) (s : List Byte) : xorfold (b :: s) = b ^^^ xorfold s := by
  calc xorfold (b :: s)
      = xorfoldFrom (b ^^^ 0x00) s := congrArg (xorfoldFrom · s) (BitVec.xor_comm _ _)
    _ = b ^^^ xorfold s := xorfoldFrom_xor b 0x00 s

@[simp] theorem xorfold_append (s t : List Byte) : xorfold (s ++ t) = xorfold s ^^^ xorfold t := by
  induction s with
  | nil => exact (BitVec.zero_xor).symm
  | cons b s ih => rw [List.cons_append, xorfold_cons, ih, xorfold_cons, BitVec.xor_assoc]

theorem xorfold_singleton (b : Byte) : xorfold [b] = b := by
  rw [xorfold_cons]
  exact BitVec.xor_zero

theorem xorfold_concat (s : List Byte) (b : Byte) : xorfold (s ++ [b]) = xorfold s ^^^ b := by
  rw [xorfold_append, xorfold_singleton]

/-- The order of the bytes does not matter. -/
theorem xorfold_perm {s t : List Byte} (h : s.Perm t) : xorfold s = xorfold t := by
  induction h with
  | nil => rfl
  | cons b _ ih => rw [xorfold_cons, xorfold_cons, ih]
  | swap a b s =>
    simp only [xorfold_cons]
    rw [← BitVec.xor_assoc, BitVec.xor_comm b a, BitVec.xor_assoc]
  | trans _ _ ih₁ ih₂ => exact ih₁.trans ih₂

/-- Each bit is folded by itself, and counts the bytes that have it modulo 2. -/
theorem getLsbD_xorfold (s : List Byte) (t : Nat) :
    (xorfold s).getLsbD t = ((s.filter fun b => b.getLsbD t).length % 2 == 1) := by
  induction s with
  | nil => exact BitVec.getLsbD_zero
  | cons b s ih =>
    rw [xorfold_cons, BitVec.getLsbD_xor, ih, List.filter_cons]
    cases b.getLsbD t with
    | false => exact Bool.false_xor _
    | true =>
      rw [if_pos rfl, List.length_cons, Bool.true_xor, Bool.eq_iff_iff]
      simp only [Bool.not_eq_true', beq_eq_false_iff_ne, beq_iff_eq]
      omega

/-- A sequence folds to zero exactly when its last byte is the fold of the others. -/
theorem xorfold_concat_eq_zero {s : List Byte} {b : Byte} : xorfold (s ++ [b]) = 0x00 ↔ b = xorfold s := by
  rw [xorfold_concat, eq_comm (a := b)]
  exact BitVec.xor_eq_zero_iff

theorem xorfold_wireEncode (p : List Byte) : xorfold (wireEncode p) = 0x00 := xorfold_concat_eq_zero.2 rfl

/-! ### What a command changes -/

@[simp] theorem statusWord_codeOK : statusWord codeOK = 0x80 := by decide

/-- A result delivered over any hidden registers leaves the inputs, the host's side of the port and the stored bytes
outside its output as they were (00_scope.md R9). -/
theorem State.ran_deliver_completesTo (acc : Byte) (idx : Nat) (r : CommandResult) (s : State)
    (h : r.out.length < 2 ^ 16) :
    s.completesTo ((s.ran acc idx).deliver r) (statusWord r.code) r.kout r.chk r.out := by
  refine ⟨State.deliver_shows r _ h, State.complete_sameInputs _ _ _ _ (s.ran acc idx), rfl, fun j hj => ?_⟩
  rw [State.deliver, State.complete_obuf, Memory.read_writeList, if_neg (by omega), State.ran_obuf]

/-- A command over a written input completes with its result, when the output fits the port. -/
theorem exec_command_completesTo {i : Instr} (hf : i.format = .cmd) (hn : i ≠ .nop) {s : State} {bytes : List Byte}
    (hin : s.inputIs bytes) {r : CommandResult} (hr : commandResult s.cfg s.kin i bytes = r)
    (hout : r.out.length < 2 ^ 16) :
    ∃ t, exec i s = .next t ∧ s.completesTo t (statusWord r.code) r.kout r.chk r.out := by
  obtain ⟨acc, idx, h⟩ := exec_command hf hn s.cfg s.kin bytes
  rw [hr] at h
  exact ⟨_, h s rfl rfl hin, State.ran_deliver_completesTo acc idx r s hout⟩

/-- A command whose result is a success completes with it. -/
theorem exec_command_completesTo_ok {i : Instr} (hf : i.format = .cmd) (hn : i ≠ .nop) {s : State} {bytes : List Byte}
    (hin : s.inputIs bytes) {kout chk : Byte} {out : List Byte}
    (hr : commandResult s.cfg s.kin i bytes = .ok kout chk out) (hout : out.length < 2 ^ 16) :
    ∃ t, exec i s = .next t ∧ s.completesTo t 0x80 kout chk out :=
  statusWord_codeOK ▸ exec_command_completesTo hf hn hin hr hout

/-! ### The statements about the checksum (40_checksum.md) -/

/-- Settles O20: CSUM's result is a success with the fold and no output, whatever the length of the input. -/
theorem csumFoldsTheInput : Obligations.CsumFoldsTheInput :=
  ⟨by decide, fun _ _ hin => exec_command_completesTo_ok (i := .csum) rfl (by decide) hin rfl (by decide)⟩

/-- Settles O38: a byte is appended by the law of concatenation, and the parity holds by induction on the bytes. -/
theorem xorfoldIsBitwiseParity : Obligations.XorfoldIsBitwiseParity :=
  ⟨xorfold_nil, xorfold_concat, fun s t _ => getLsbD_xorfold s t⟩

/-- Settles O39: all but the permutations follow from the law of concatenation. -/
theorem xorfoldLaws : Obligations.XorfoldLaws := by
  refine ⟨xorfold_append, fun s t => xorfold_perm, fun b => ⟨xorfold_singleton b, ?_⟩,
    fun s => xorfold_concat_eq_zero.2 rfl, fun s t => ?_⟩
  · exact (xorfold_concat_eq_zero (s := [b])).2 (xorfold_singleton b).symm
  · calc xorfold (s ++ 0x00 :: t)
        = xorfold s ^^^ (0x00 ^^^ xorfold t) := by rw [xorfold_append, xorfold_cons]
      _ = xorfold s ^^^ xorfold t := congrArg _ BitVec.zero_xor
      _ = xorfold (s ++ t) := (xorfold_append s t).symm

/-- Settles O40: a sequence that is not empty is its other bytes and its last one. -/
theorem residueLaw : Obligations.ResidueLaw := by
  refine ⟨fun w hw => ?_, xorfold_wireEncode⟩
  obtain ⟨s, b, rfl⟩ := List.eq_nil_or_concat' w |>.resolve_left (List.ne_nil_of_length_pos hw)
  rw [List.getLast?_concat, List.dropLast_concat, Option.some_inj, xorfold_concat_eq_zero]

end Sys2Proof.Machine

/-! SUPPORT. The encoder: what a wire frame is, that the validator gives its payload back, and the command ENC
(41_encode.md). -/

namespace Sys2Proof.Machine

/-! ### The wire frame -/

/-- The checksum by the law of the fold, with the delimiter in front (40_checksum.md R92). -/
theorem checksum_eq_xor (p : List Byte) : checksum p = 0xB3 ^^^ xorfold p := xorfold_cons delimiter p

/-- The three parts of a wire frame, in the form the validator's lemmas take a frame apart (41_encode.md R100). -/
theorem wireEncode_eq (p : List Byte) : wireEncode p = delimiter :: (p ++ [checksum p]) := rfl

/-- The validator computes the checksum that the encoder appended. -/
theorem validate_wireEncode (p : List Byte) : validate (wireEncode p) = .ok (p, checksum p) := by
  rw [wireEncode_eq, validate_frame]
  exact if_neg (not_not_intro rfl)

theorem wireDecode_wireEncode (p : List Byte) : wireDecode (wireEncode p) = .ok p := by
  rw [wireDecode, validate_wireEncode]

/-- What has a left inverse is injective (41_encode.md R104). -/
theorem wireEncode_injective : Function.Injective wireEncode := fun p q h =>
  Except.ok.inj <| calc Except.ok p
    _ = wireDecode (wireEncode p) := (wireDecode_wireEncode p).symm
    _ = wireDecode (wireEncode q) := congrArg wireDecode h
    _ = .ok q := wireDecode_wireEncode q

/-! ### Commands over an input that fits the buffer -/

/-- The output of a command fits the port when the input fits the buffer (10_state.md R17). -/
theorem commandResult_out_length_lt_port {i : Instr} (hf : i.format = .cmd) (hn : i ≠ .nop) {s : State} (hs : s.Sized)
    {bytes : List Byte} (hin : s.inputIs bytes) : (commandResult s.cfg s.kin i bytes).out.length < 2 ^ 16 := by
  obtain ⟨hlen, -⟩ := hin
  calc (commandResult s.cfg s.kin i bytes).out.length
      ≤ bytes.length + 3 := commandResult_out_length hf hn _ _ _
    _ ≤ s.cfg.nmax + 3 := Nat.add_le_add_right (hlen.le.trans hs.ilen) 3
    _ < 2 ^ 16 := Config.nmax_add_three_lt_port hs.cfg

/-- A completion leaves the length of its output sequence in `OLEN`. -/
theorem State.completesTo.olen {s t : State} {status kout chk : Byte} {out : List Byte}
    (h : s.completesTo t status kout chk out) : t.olen.toNat = out.length := by
  obtain ⟨⟨-, -, -, hl, -⟩, -⟩ := h
  exact hl

/-! ### The statements about the encoder (41_encode.md) -/

/-- Settles O21: ENC's result is a success with the checksum and the wire frame of the input. -/
theorem encFramesTheInput : Obligations.EncFramesTheInput := by
  refine ⟨by decide, wireEncode_length, fun s bytes hs hin => ?_⟩
  have hout := commandResult_out_length_lt_port (i := .enc) rfl (by decide) hs hin
  obtain ⟨t, ht, hc⟩ := exec_command_completesTo_ok (i := .enc) rfl (by decide) hin rfl hout
  obtain ⟨hlen, -⟩ := hin
  refine ⟨t, checksum bytes, ht, checksum_eq_xor bytes, ?_, hc⟩
  calc t.olen.toNat
      = (wireEncode bytes).length := hc.olen
    _ = bytes.length + 2 := wireEncode_length bytes
    _ = s.ilen.toNat + 2 := congrArg (· + 2) hlen

/-- Settles O42: DECODE is a left inverse of ENCODE, so ENCODE is injective. -/
theorem encodeLaws : Obligations.EncodeLaws :=
  ⟨xorfold_wireEncode, fun _ _ h => wireEncode_injective h, wireDecode_wireEncode⟩

end Sys2Proof.Machine

/-! SUPPORT. The decoder: what DECODE answers in each of its cases, that it inverts ENCODE, and the command DEC
(42_decode.md). -/

namespace Sys2Proof.Machine

/-! ### The function DECODE -/

theorem wireDecode_of_head_ne {w : List Byte} (hl : 2 ≤ w.length) (hd : w.head? ≠ some delimiter) :
    wireDecode w = .error .badDelimiter := by
  rw [wireDecode, validate_of_head_ne hl hd]

/-- On a frame the checksum byte decides. -/
theorem wireDecode_frame (p : List Byte) (c : Byte) :
    wireDecode (delimiter :: (p ++ [c])) = if checksum p ≠ c then .error .badChecksum else .ok p := by
  rw [wireDecode, validate_frame, checksum]
  by_cases hc : xorfold (delimiter :: p) = c
  · rw [if_neg (not_not_intro hc), if_neg (not_not_intro hc)]
  · rw [if_pos hc, if_pos hc]

/-- The residue decides too: a frame that does not fold to zero has a wrong checksum byte (40_checksum.md R95). -/
theorem wireDecode_of_residue_ne {w : List Byte} (hl : 2 ≤ w.length) (hd : w.head? = some delimiter)
    (hr : xorfold w ≠ 0x00) : wireDecode w = .error .badChecksum := by
  obtain ⟨p, c, rfl⟩ := frame_of_delimiter hl hd
  rw [wireDecode_frame, if_pos]
  rintro rfl
  exact hr (xorfold_wireEncode p)

/-- Accepted bytes are a frame of the payload given back. -/
theorem eq_wireEncode_of_wireDecode {w p : List Byte} (h : wireDecode w = .ok p) : w = wireEncode p := by
  unfold wireDecode at h
  rcases hv : validate w with ⟨e, c⟩ | ⟨q, c⟩ <;> rw [hv] at h <;> cases h
  obtain ⟨rfl, rfl⟩ := validate_eq_ok hv
  rfl

/-! ### A changed byte -/

/-- What one byte is exclusive-ored with, the fold is. -/
theorem xorfold_modify {w : List Byte} {i : Nat} (h : i < w.length) (x : Byte) :
    xorfold (w.modify i (· ^^^ x)) = xorfold w ^^^ x := by
  obtain ⟨l, b, r, rfl, -, hm⟩ := List.exists_of_modify (· ^^^ x) h
  simp only [hm, xorfold_append, xorfold_cons]
  ac_rfl

/-- A frame whose first byte changes loses its delimiter. -/
theorem wireDecode_modify_zero (p : List Byte) {x : Byte} (hx : x ≠ 0x00) :
    wireDecode ((wireEncode p).modify 0 (· ^^^ x)) = .error .badDelimiter := by
  refine wireDecode_of_head_ne (by simp [wireEncode_length]) ?_
  rw [wireEncode_eq, List.modify_zero_cons, List.head?_cons, Ne, Option.some_inj]
  exact fun h => hx ((BitVec.xor_right_inj delimiter).1 (h.trans BitVec.xor_zero.symm))

/-- A frame in which any other byte changes keeps its delimiter and has the change as its residue. -/
theorem wireDecode_modify_succ {p : List Byte} {i : Nat} (h : i + 1 < (wireEncode p).length) {x : Byte}
    (hx : x ≠ 0x00) : wireDecode ((wireEncode p).modify (i + 1) (· ^^^ x)) = .error .badChecksum := by
  refine wireDecode_of_residue_ne (by simp [wireEncode_length]) ?_ ?_
  · rw [wireEncode_eq, List.modify_succ_cons, List.head?_cons]
  · rw [xorfold_modify h, xorfold_wireEncode]
    exact fun h0 => hx (BitVec.zero_xor.symm.trans h0)

/-- A byte with one bit set is not zero. -/
theorem twoPow_ne_zero {t : Nat} (h : t < 8) : BitVec.twoPow 8 t ≠ 0x00 := by
  refine ne_of_apply_ne BitVec.toNat ?_
  rw [BitVec.toNat_twoPow_of_lt h]
  exact (Nat.two_pow_pos t).ne'

/-! ### The validator's result -/

section
variable (next : List Byte → Byte → CommandResult)

theorem validated_of_short {w : List Byte} (h : w.length < 2) : validated w next = .error .tooShort 0x00 := by
  rw [validated, validate_of_short h]

theorem validated_of_head_ne {w : List Byte} (hl : 2 ≤ w.length) (hd : w.head? ≠ some delimiter) :
    validated w next = .error .badDelimiter 0x00 := by
  rw [validated, validate_of_head_ne hl hd]

theorem validated_of_checksum_ne {p : List Byte} {c : Byte} (h : checksum p ≠ c) :
    validated (delimiter :: (p ++ [c])) next = .error .badChecksum (checksum p) := by
  rw [checksum] at h ⊢
  rw [validated, validate_frame, if_pos h]

theorem validated_wireEncode (p : List Byte) : validated (wireEncode p) next = next p (checksum p) := by
  rw [validated, validate_wireEncode]

end

/-! ### Commands -/

/-- A command over a written input that fits the buffer completes with its result: raises the error, or completes with
the success. -/
theorem exec_command_completesTo_result {i : Instr} (hf : i.format = .cmd) (hn : i ≠ .nop) {s : State} (hs : s.Sized)
    {bytes : List Byte} (hin : s.inputIs bytes) :
    ∃ t, exec i s = .next t
      ∧ (∀ {e chk}, commandResult s.cfg s.kin i bytes = .error e chk → s.completesTo t (statusWord e.code) 0xFF chk [])
      ∧ ∀ {kout chk out}, commandResult s.cfg s.kin i bytes = .ok kout chk out → s.completesTo t 0x80 kout chk out := by
  obtain ⟨t, ht, hc⟩ := exec_command_completesTo hf hn hin rfl (commandResult_out_length_lt_port hf hn hs hin)
  refine ⟨t, ht, fun hr => ?_, fun hr => ?_⟩ <;> rw [hr] at hc
  · exact hc
  · exact statusWord_codeOK ▸ hc

/-- Bytes that fit the buffer are the next command's input once they are loaded (30_encoding.md R75). -/
theorem State.load_inputIs {s : State} (hc : s.cfg.wf) {bytes : List Byte} (h : bytes.length ≤ s.cfg.nmax) :
    (s.load bytes).inputIs bytes := by
  have hlt : s.cfg.nmax < 2 ^ s.cfg.lw := Nat.sub_lt (Nat.two_pow_pos _) Nat.one_pos
  have hport := Config.nmax_add_three_lt_port hc
  have hn : (s.load bytes).n = bytes.length := by
    calc (s.load bytes).ilen.toNat
        = (BitVec.ofNat 16 bytes.length).toNat % 2 ^ s.cfg.lw := State.toNat_setIlen_ilen hc _
      _ = bytes.length % 2 ^ s.cfg.lw := congrArg (· % _) (Nat.mod_eq_of_lt (by omega))
      _ = bytes.length := Nat.mod_eq_of_lt (by omega)
  refine ⟨hn.symm, fun i hi => ?_⟩
  rw [State.load_ibuf, Memory.read_writeList, if_pos (by omega), Nat.sub_zero]

/-- The shortest frame fits every build's buffer (00_scope.md R6). -/
theorem Config.two_le_nmax {c : Config} (h : c.wf) : 2 ≤ c.nmax := by
  obtain ⟨hlw, -⟩ := h
  have h8 : 2 ^ 3 ≤ 2 ^ c.lw := Nat.pow_le_pow_right (by decide) hlw
  rw [Config.nmax]
  omega

/-! ### The statements about the decoder (42_decode.md) -/

/-- Settles O43: accepted bytes are the frame of their payload, and that frame decodes to it. -/
theorem decodeIsTheExactInverseOfEncode : Obligations.DecodeIsTheExactInverseOfEncode :=
  fun _ p => ⟨eq_wireEncode_of_wireDecode, fun h => h ▸ wireDecode_wireEncode p⟩

/-- Settles O46: ENC leaves the frame as its output, which loaded is DEC's input. -/
theorem decAfterEncGivesThePayload : Obligations.DecAfterEncGivesThePayload := by
  refine ⟨wireDecode_wireEncode, fun s p hinv hin hp => ?_⟩
  have hwf := hinv.sized.cfg
  have hfit : (wireEncode p).length ≤ s.cfg.nmax := by
    rw [wireEncode_length]
    have hmin := Config.two_le_nmax hwf
    omega
  have hport := Config.nmax_add_three_lt_port hwf
  obtain ⟨t, ht, ⟨-, -, -, -, hout, -⟩, ⟨hcfg, -⟩, -⟩ :=
    exec_command_completesTo_ok (i := .enc) rfl (by decide) hin rfl (by omega)
  have hin' : (t.load (wireEncode p)).inputIs (wireEncode p) := State.load_inputIs (hcfg ▸ hwf) (hcfg ▸ hfit)
  obtain ⟨u, hu, ⟨hst, -, -, holen, hout', -⟩, -⟩ :=
    exec_command_completesTo_ok (i := .dec) rfl (by decide) hin' (validated_wireEncode _ p) (by omega)
  exact ⟨t, u, ht, hout ▸ hu, hst, holen, hout'⟩

/-- Settles O22: the validator's result in each of its four cases is what DEC completes with. -/
theorem decValidatesAndUnframes : Obligations.DecValidatesAndUnframes := by
  refine ⟨by decide, fun s bytes hs hin => ?_⟩
  obtain ⟨t, ht, herr, hok⟩ := exec_command_completesTo_result (i := .dec) rfl (by decide) hs hin
  refine ⟨t, ht, fun hl => herr (validated_of_short _ hl), ?_, ?_, ?_⟩
  · rintro b0 b1 rest rfl hb
    exact herr (validated_of_head_ne _ (by simp) (mt Option.some.inj hb))
  · rintro p c rfl hne
    exact herr (validated_of_checksum_ne _ hne)
  · rintro p c rfl rfl
    exact hok (validated_wireEncode _ p)

/-- Settles O44: byte 0 is the delimiter, and any other byte's change is the residue. -/
theorem everySingleBitFlipIsRejected : Obligations.EverySingleBitFlipIsRejected := by
  intro p i t hi ht
  have hx := twoPow_ne_zero ht
  cases i with
  | zero => rw [if_pos rfl, wireDecode_modify_zero p hx]
  | succ i => rw [if_neg i.succ_ne_zero, wireDecode_modify_succ hi hx]

end Sys2Proof.Machine

/-! SUPPORT. The Frame Model: what DISC answers in each of its cases, DESERIALIZE as DISC's verdict on a payload, and the
commands SER and DES (43_frame_model.md). -/

namespace Sys2Proof.Machine

/-! ### The Frame IDs -/

@[simp] theorem Kind.ofFid_fid (k : Kind) : Kind.ofFid k.fid = some k := by
  cases k <;> rfl

/-- A byte that is no kind's Frame ID names none (30_encoding.md R66, R67). -/
theorem Kind.ofFid_of_no_kind {fid : Byte} (h : ∀ k : Kind, k.fid ≠ fid) : Kind.ofFid fid = none :=
  Option.eq_none_iff_forall_ne_some.2 fun k hk => h k (Kind.fid_of_ofFid hk)

/-- The seven Frame IDs avoid the reserved and the unassigned values (43_frame_model.md R137, R138). -/
theorem Kind.fid_ne_of_unassigned {v : Byte} (hv : v = 0x03 ∨ 0x08 ≤ v) (k : Kind) : k.fid ≠ v := by
  rintro rfl
  revert hv
  cases k <;> decide

/-! ### The verdict of DISC -/

theorem disc_of_no_kind (c : Config) {fid : Byte} (m : Nat) (h : ∀ k : Kind, k.fid ≠ fid) :
    disc c fid m = .error .unknownFrameId := by
  rw [disc, discLookup, Kind.ofFid_of_no_kind h, Option.map_none]

/-- On a kind's Frame ID the number of argument bytes decides (43_frame_model.md R129). -/
theorem disc_fid (c : Config) (k : Kind) (m : Nat) :
    disc c k.fid m =
      if m < c.arglenOf k then .error .truncatedPayload
      else if c.arglenOf k < m then .error .trailingBytes
      else .ok k := by
  rw [disc, discLookup, Kind.ofFid_fid, Option.map_some]

theorem disc_of_lt {c : Config} {k : Kind} {m : Nat} (h : m < c.arglenOf k) :
    disc c k.fid m = .error .truncatedPayload := by
  rw [disc_fid, if_pos h]

theorem disc_of_gt {c : Config} {k : Kind} {m : Nat} (h : c.arglenOf k < m) :
    disc c k.fid m = .error .trailingBytes := by
  rw [disc_fid, if_neg h.not_gt, if_pos h]

theorem disc_of_eq {c : Config} {k : Kind} {m : Nat} (h : m = c.arglenOf k) : disc c k.fid m = .ok k := by
  rw [disc_fid, if_neg h.not_lt, if_neg h.not_gt]

section
variable {c : Config} {fid : Byte} {m : Nat} (chk : Byte) (success : CommandResult)

theorem discriminated_of_error {e : FrameError} (h : disc c fid m = .error e) :
    discriminated c fid m chk success = .error e chk := by
  rw [discriminated, h]

theorem discriminated_of_ok {k : Kind} (h : disc c fid m = .ok k) : discriminated c fid m chk success = success := by
  rw [discriminated, h]

end

/-! ### The function DESERIALIZE -/

/-- On a payload that is not empty DESERIALIZE is DISC's verdict, with the argument bytes (43_frame_model.md R128, R129). -/
theorem deserialize_cons (c : Config) (fid : Byte) (args : List Byte) :
    deserialize c (fid :: args) = (disc c fid args.length).map (⟨·, args⟩) := by
  rw [deserialize, deserializeUnder, disc, discLookup]
  cases Kind.ofFid fid with
  | none => rfl
  | some k =>
    simp only [Option.map_some]
    split_ifs <;> rfl

theorem Frame.wf_iff {c : Config} {f : Frame} : f.wf c = true ↔ f.args.length = c.arglenOf f.kind := beq_iff_eq

theorem deserialize_of_no_kind (c : Config) {fid : Byte} (args : List Byte) (h : ∀ k : Kind, k.fid ≠ fid) :
    deserialize c (fid :: args) = .error .unknownFrameId := by
  rw [deserialize_cons, disc_of_no_kind c _ h]
  rfl

theorem deserialize_serialize {c : Config} {f : Frame} (h : f.wf c = true) : deserialize c (serialize f) = .ok f := by
  rw [serialize, deserialize_cons, disc_of_eq (Frame.wf_iff.1 h)]
  rfl

/-- An accepted payload is the serialization of the frame given back, which has its kind's number of argument bytes. -/
theorem serialize_of_deserialize {c : Config} {p : List Byte} {f : Frame} (h : deserialize c p = .ok f) :
    serialize f = p ∧ f.wf c = true := by
  cases p with
  | nil => cases h
  | cons fid args =>
    rw [deserialize_cons] at h
    cases hd : disc c fid args.length with
    | error e => rw [hd] at h; cases h
    | ok k =>
      rw [hd] at h
      cases h
      obtain ⟨rfl, hm⟩ := disc_eq_ok hd
      exact ⟨rfl, Frame.wf_iff.2 hm⟩

/-! ### Commands -/

/-- A command whose result is an error raises it. -/
theorem exec_command_completesTo_error {i : Instr} (hf : i.format = .cmd) (hn : i ≠ .nop) {s : State}
    {bytes : List Byte} (hin : s.inputIs bytes) {e : FrameError} {chk : Byte}
    (hr : commandResult s.cfg s.kin i bytes = .error e chk) :
    ∃ t, exec i s = .next t ∧ s.completesTo t (statusWord e.code) 0xFF chk [] :=
  exec_command_completesTo hf hn hin hr (Nat.two_pow_pos 16)

/-! ### The statements about the Frame Model (43_frame_model.md) -/

/-- Settles O48: DISC passes a frame's own Frame ID and number of argument bytes, and nothing else; under IGNORE a Ping
with an argument byte loses it. -/
theorem serializeAndDeserializeAreInverse : Obligations.SerializeAndDeserializeAreInverse :=
  ⟨fun _ _ hf => ⟨deserialize_serialize hf, rfl⟩, fun _ _ _ => serialize_of_deserialize,
    Config.ref, [0x00, 0x00], ⟨.ping, []⟩, by decide, rfl, by decide⟩

/-- Settles O23: SER's result in each case of DISC's verdict on `KIN` and the length of the input. -/
theorem serBuildsThePayload : Obligations.SerBuildsThePayload := by
  refine ⟨by decide, fun s bytes hs hin => ?_⟩
  obtain ⟨t, ht, herr, hok⟩ := exec_command_completesTo_result (i := .ser) rfl (by decide) hs hin
  refine ⟨t, ht, fun hnone => herr (discriminated_of_error _ _ (disc_of_no_kind _ _ hnone)), fun k hk => ?_⟩
  rw [commandResult, ← hk] at herr hok
  exact ⟨fun hlt => herr (discriminated_of_error _ _ (disc_of_lt hlt)),
    fun hgt => herr (discriminated_of_error _ _ (disc_of_gt hgt)),
    fun heq => hk ▸ hok (discriminated_of_ok _ _ (disc_of_eq heq))⟩

/-- Settles O24: DES's result on no byte, and in each case of DISC's verdict on the first byte and the number of bytes after
it. -/
theorem desSplitsThePayload : Obligations.DesSplitsThePayload := by
  refine ⟨by decide, fun s bytes hs hin => ?_⟩
  obtain ⟨t, ht, herr, hok⟩ := exec_command_completesTo_result (i := .des) rfl (by decide) hs hin
  refine ⟨t, ht, ?_, ?_, ?_⟩
  · rintro rfl
    exact herr rfl
  · rintro fid args rfl hnone
    exact herr (discriminated_of_error _ _ (disc_of_no_kind _ _ hnone))
  · rintro k args rfl
    exact ⟨fun hlt => herr (discriminated_of_error _ _ (disc_of_lt hlt)),
      fun hgt => herr (discriminated_of_error _ _ (disc_of_gt hgt)),
      fun heq => hok (discriminated_of_ok _ _ (disc_of_eq heq))⟩

/-- Settles O47: none of these values is a kind's Frame ID, so DISC's first check fails in all four commands; RX reaches it
because the codec carries every payload, and reports the checksum. -/
theorem reservedAndUnassignedIdsAreRejected : Obligations.ReservedAndUnassignedIdsAreRejected := by
  intro v hv
  have hnone := Kind.fid_ne_of_unassigned hv
  have hdisc (c : Config) (m : Nat) (chk : Byte) (success : CommandResult) :
      discriminated c v m chk success = .error .unknownFrameId chk :=
    discriminated_of_error _ _ (disc_of_no_kind c m hnone)
  refine ⟨hnone, fun c x => deserialize_of_no_kind c x hnone, fun x => wireDecode_wireEncode (v :: x),
    fun s x _ => ⟨fun hin => ?_, fun hin => ?_, ?_⟩⟩
  · exact exec_command_completesTo_error (i := .des) rfl (by decide) hin (hdisc _ _ _ _)
  · exact exec_command_completesTo_error (i := .rx) rfl (by decide) hin
      ((validated_wireEncode _ (v :: x)).trans (hdisc _ _ _ _))
  · rintro rfl hin
    exact ⟨exec_command_completesTo_error (i := .ser) rfl (by decide) hin (hdisc _ _ _ _),
      exec_command_completesTo_error (i := .tx) rfl (by decide) hin (hdisc _ _ _ _)⟩

end Sys2Proof.Machine

/-! SUPPORT. The pipeline: what TX and RX answer on a frame, that each gives back what the other took, and the command NOP
(44_pipeline.md). -/

namespace Sys2Proof.Machine

/-! ### Frames and their wire frames -/

theorem rxFrame_txFrame {c : Config} {f : Frame} (h : f.wf c = true) : rxFrame c (txFrame f) = .ok f := by
  rw [rxFrame, txFrame, wireDecode_wireEncode]
  exact deserialize_serialize h

/-- The wire frame of a kind and its argument bytes fits every build's buffer (00_scope.md R7). -/
theorem wireEncode_frame_length_le {c : Config} (hc : c.wf) {k : Kind} {args : List Byte}
    (h : args.length = c.arglenOf k) : (wireEncode (k.fid :: args)).length ≤ c.nmax := by
  rw [wireEncode_length, List.length_cons, h]
  exact (Laws.Config.wf_room c hc).2 k

/-! ### The results of TX and RX -/

theorem commandResult_tx_frame {c : Config} {k : Kind} {args : List Byte} (h : args.length = c.arglenOf k) :
    commandResult c k.fid .tx args = .ok 0xFF (checksum (k.fid :: args)) (wireEncode (k.fid :: args)) :=
  discriminated_of_ok _ _ (disc_of_eq h)

/-- On a wire frame RX is the discriminator on its payload (44_pipeline.md R163). -/
theorem commandResult_rx_wireEncode (c : Config) (kin : Byte) (p : List Byte) :
    commandResult c kin .rx (wireEncode p) = recognised c (checksum p) p :=
  validated_wireEncode _ p

theorem recognised_frame {c : Config} {k : Kind} {args : List Byte} (chk : Byte) (h : args.length = c.arglenOf k) :
    recognised c chk (k.fid :: args) = .ok k.fid chk args :=
  discriminated_of_ok _ _ (disc_of_eq h)

/-- What RX accepts is the wire frame of the kind and the argument bytes it gives: the checksum byte, which
`commandResult_rx_eq_ok` leaves open, is theirs. -/
theorem eq_wireEncode_of_rx_eq_ok {c : Config} {kin kout chk : Byte} {w out : List Byte}
    (h : commandResult c kin .rx w = .ok kout chk out) :
    w = wireEncode (kout :: out) ∧ ∃ k : Kind, kout = k.fid ∧ out.length = c.arglenOf k := by
  obtain ⟨p, v, rfl, rfl, hp⟩ := validated_eq_ok h
  obtain ⟨rfl, hk⟩ := recognised_eq_ok hp
  exact ⟨rfl, hk⟩

/-! ### The commands on a frame -/

/-- TX sends every frame of the build. -/
theorem exec_tx_frame {s : State} (hc : s.cfg.wf) {k : Kind} (hk : s.kin = k.fid) {args : List Byte}
    (hin : s.inputIs args) (h : args.length = s.cfg.arglenOf k) :
    ∃ t, exec .tx s = .next t
      ∧ s.completesTo t 0x80 0xFF (checksum (k.fid :: args)) (wireEncode (k.fid :: args)) := by
  have hfit := wireEncode_frame_length_le hc h
  have hport := Config.nmax_add_three_lt_port hc
  exact exec_command_completesTo_ok (i := .tx) rfl (by decide) hin (hk ▸ commandResult_tx_frame h) (by omega)

/-- RX accepts the wire frame of every frame of the build. -/
theorem exec_rx_frame {s : State} (hc : s.cfg.wf) {k : Kind} {args : List Byte}
    (hin : s.inputIs (wireEncode (k.fid :: args))) (h : args.length = s.cfg.arglenOf k) :
    ∃ t, exec .rx s = .next t ∧ s.completesTo t 0x80 k.fid (checksum (k.fid :: args)) args := by
  have hroom := (Laws.Config.wf_room _ hc).2 k
  have hport := Config.nmax_add_three_lt_port hc
  exact exec_command_completesTo_ok (i := .rx) rfl (by decide) hin
    ((commandResult_rx_wireEncode _ _ _).trans (recognised_frame _ h)) (by omega)

/-- An RX that ends with `STATUS` 0x80 was given the wire frame of the kind and the argument bytes in its outputs, in the
same build. -/
theorem exec_rx_accepts {s u : State} (hs : s.Sized) {w : List Byte} (hin : s.inputIs w) (hu : exec .rx s = .next u)
    (hst : u.status = 0x80) :
    u.cfg = s.cfg ∧ w = wireEncode (u.kout :: u.output)
      ∧ ∃ k : Kind, u.kout = k.fid ∧ u.output.length = s.cfg.arglenOf k := by
  obtain ⟨u', hu', hsh, ⟨hcfg, -⟩, -⟩ := exec_command_completesTo (i := .rx) rfl (by decide) hin rfl
    (commandResult_out_length_lt_port rfl (by decide) hs hin)
  cases hu'.symm.trans hu
  exact ⟨hcfg.symm, eq_wireEncode_of_rx_eq_ok (State.showsResult.eq_ok hsh hst)⟩

/-! ### The statements about the pipeline (44_pipeline.md) -/

/-- Settles O50: RX undoes TX because the frame TX leaves fits the buffer and decodes to its kind and argument bytes; TX
undoes RX because the bytes RX accepts are the frame of what it gave. -/
theorem rxInvertsTx : Obligations.RxInvertsTx := by
  refine ⟨fun c f => rxFrame_txFrame, fun s k args hinv hk hin hlen => ?_, fun s w u hinv hin hu hst => ?_⟩
  · have hc := hinv.sized.cfg
    obtain ⟨t, ht, ⟨-, -, -, -, hout, -⟩, ⟨hcfg, -⟩, -⟩ := exec_tx_frame hc hk hin hlen
    have hin' : (t.load (wireEncode (k.fid :: args))).inputIs (wireEncode (k.fid :: args)) :=
      State.load_inputIs (hcfg ▸ hc) (hcfg ▸ wireEncode_frame_length_le hc hlen)
    obtain ⟨u, hu, ⟨hst, hkout, -, holen, hout', -⟩, -⟩ := exec_rx_frame (hcfg ▸ hc) hin' (hcfg ▸ hlen)
    exact ⟨t, u, ht, hout ▸ hu, hst, hkout, holen, hout'⟩
  · have hc := hinv.sized.cfg
    obtain ⟨hcfg, rfl, k, hk, hlen⟩ := exec_rx_accepts hinv.sized hin hu hst
    have hroom := (Laws.Config.wf_room _ hc).2 k
    have hin' : (u.load u.output).inputIs u.output := State.load_inputIs (hcfg ▸ hc) (hcfg ▸ by omega)
    have hkin : ((u.load u.output).setKin (u.kout.setWidth 16)).kin = k.fid := by
      rw [State.setKin_kin, BitVec.setWidth_setWidth_of_le _ (by decide), BitVec.setWidth_eq, hk]
    obtain ⟨t, ht, ⟨hst', -, -, -, hout, -⟩, -⟩ := exec_tx_frame
      (s := (u.load u.output).setKin (u.kout.setWidth 16)) (hcfg ▸ hc) hkin
      (State.inputIs_congr rfl (fun _ _ => rfl) hin') (hcfg ▸ hlen)
    exact ⟨t, ht, hst', hk ▸ hout⟩

/-- Settles O25: TX's result in each case of DISC's verdict on `KIN` and the length of the input. -/
theorem txFramesAFrame : Obligations.TxFramesAFrame := by
  refine ⟨by decide, fun s bytes hs hin => ?_⟩
  obtain ⟨t, ht, herr, hok⟩ := exec_command_completesTo_result (i := .tx) rfl (by decide) hs hin
  have hchk : checksum (s.kin :: bytes) = 0xB3 ^^^ s.kin ^^^ xorfold bytes := by
    rw [checksum_eq_xor, xorfold_cons, BitVec.xor_assoc]
  refine ⟨t, checksum (s.kin :: bytes), ht, hchk,
    fun hnone => herr (discriminated_of_error _ _ (disc_of_no_kind _ _ hnone)), fun k hk => ?_⟩
  rw [commandResult, ← hk] at herr hok
  exact ⟨fun hlt => herr (discriminated_of_error _ _ (disc_of_lt hlt)),
    fun hgt => herr (discriminated_of_error _ _ (disc_of_gt hgt)),
    fun heq => hk ▸ hok (discriminated_of_ok _ _ (disc_of_eq heq))⟩

/-- Settles O26: the validator's three errors, and on a wire frame the discriminator's result on its payload; the two bytes
[0xB3, 0xB3] are the wire frame of no payload. -/
theorem rxRecognisesAFrame : Obligations.RxRecognisesAFrame := by
  refine ⟨by decide, fun s bytes hs hin => ?_⟩
  obtain ⟨t, ht, herr, hok⟩ := exec_command_completesTo_result (i := .rx) rfl (by decide) hs hin
  refine ⟨t, ht, fun hl => herr (validated_of_short _ hl), ?_, ?_, ?_, ?_, ?_⟩
  · rintro b0 b1 rest rfl hb
    exact herr (validated_of_head_ne _ (by simp) (mt Option.some.inj hb))
  · rintro p c rfl hne
    exact herr (validated_of_checksum_ne _ hne)
  · rintro rfl
    exact herr (commandResult_rx_wireEncode _ _ [])
  · rintro fid args c rfl rfl hnone
    exact herr ((commandResult_rx_wireEncode _ _ (fid :: args)).trans
      (discriminated_of_error _ _ (disc_of_no_kind _ _ hnone)))
  · rintro k args c rfl rfl
    have hrx := commandResult_rx_wireEncode s.cfg s.kin (k.fid :: args)
    exact ⟨fun hlt => herr (hrx.trans (discriminated_of_error _ _ (disc_of_lt hlt))),
      fun hgt => herr (hrx.trans (discriminated_of_error _ _ (disc_of_gt hgt))),
      fun heq => hok (hrx.trans (recognised_frame _ heq))⟩

/-- Settles O19: the three low bits alone choose the command, so any such value decodes as 0 does. -/
theorem nopChangesNothing : Obligations.NopChangesNothing :=
  ⟨fun _ hv => (decodeCmd_congr (w := 0) hv).trans (by decide), fun _ => rfl⟩

end Sys2Proof.Machine

/-! SUPPORT. The byte-serial datapath: the variant of `DEC_DP`'s last test (45_byte_serial.md R185). -/

namespace Sys2Proof.Machine

/-! ### The residue test -/

/-- The residue after the last byte is zero exactly when `ACC` is that byte. -/
theorem dpResidueTest_fst (last : Byte) (t : State) : (dpResidueTest last t).1 = decide (t.acc = last) := by
  rw [dpResidueTest, State.feed_acc, beq_eq_decide, decide_eq_decide]
  exact BitVec.xor_eq_zero_iff

/-- Folding a byte is its own inverse: what is reported is `ACC` from before the last byte. -/
theorem dpResidueTest_snd (last : Byte) (t : State) : (dpResidueTest last t).2 = t.acc := by
  rw [dpResidueTest, State.feed_acc]
  exact xor_cancel_right t.acc last

/-- Settles O59: the test and the checksum it reports, one component each. -/
theorem residueTestIsTheCompare : Obligations.ResidueTestIsTheCompare :=
  fun last t => Prod.ext (dpResidueTest_fst last t) (dpResidueTest_snd last t)

end Sys2Proof.Machine

/-! SUPPORT. The order of the checks: the error of each command's result is the first failing entry of the list that the
command uses (60_exceptions.md R210). -/

namespace Sys2Proof.Machine

/-! ### The first failing check -/

theorem firstFailing_cons_of_fails {failed : Bool} (h : failed = true) (e : FrameError) (rest : List (Bool × FrameError)) :
    firstFailing ((failed, e) :: rest) = some e := by
  rw [firstFailing, if_pos h]

theorem firstFailing_cons_of_passes {failed : Bool} (h : failed = false) (e : FrameError)
    (rest : List (Bool × FrameError)) : firstFailing ((failed, e) :: rest) = firstFailing rest := by
  rw [firstFailing, if_neg (Bool.eq_false_iff.1 h)]

/-- The error that a result reports, none for a success. -/
def CommandResult.failure : CommandResult → Option FrameError
  | .error e _ => some e
  | .ok _ _ _ => none

@[simp] theorem CommandResult.failure_error (e : FrameError) (c : Byte) : (CommandResult.error e c).failure = some e := rfl
@[simp] theorem CommandResult.failure_ok (k c : Byte) (out : List Byte) : (CommandResult.ok k c out).failure = none := rfl

/-! ### The checks of the Frame Model -/

/-- Entries 5 to 7 on a Frame ID and its argument bytes are the three verdicts of DISC (43_frame_model.md R129). -/
theorem discriminated_failure (c : Config) (fid : Byte) (args : List Byte) (chk : Byte) {success : CommandResult}
    (hs : success.failure = none) :
    (discriminated c fid args.length chk success).failure = firstFailing ((modelChecks c (fid :: args)).drop 1) := by
  have hchecks : (modelChecks c (fid :: args)).drop 1 =
      [((Kind.ofFid fid).isNone, .unknownFrameId), (decide (args.length < arglenAt c fid), .truncatedPayload),
       (decide (arglenAt c fid < args.length), .trailingBytes)] := rfl
  rw [hchecks]
  by_cases hk : ∃ k : Kind, k.fid = fid
  · obtain ⟨k, rfl⟩ := hk
    have hlen : arglenAt c k.fid = c.arglenOf k := by rw [arglenAt, Kind.ofFid_fid, Option.map_some, Option.getD_some]
    rw [firstFailing_cons_of_passes (by rw [Kind.ofFid_fid, Option.isNone_some]), hlen]
    obtain hlt | heq | hgt := lt_trichotomy args.length (c.arglenOf k)
    · rw [discriminated_of_error _ _ (disc_of_lt hlt), firstFailing_cons_of_fails (decide_eq_true hlt),
        CommandResult.failure_error]
    · rw [discriminated_of_ok _ _ (disc_of_eq heq), firstFailing_cons_of_passes (decide_eq_false heq.not_lt),
        firstFailing_cons_of_passes (decide_eq_false heq.not_gt), hs, firstFailing]
    · rw [discriminated_of_error _ _ (disc_of_gt hgt), firstFailing_cons_of_passes (decide_eq_false hgt.not_gt),
        firstFailing_cons_of_fails (decide_eq_true hgt), CommandResult.failure_error]
  · have hnone : ∀ k : Kind, k.fid ≠ fid := not_exists.1 hk
    rw [discriminated_of_error _ _ (disc_of_no_kind c _ hnone),
      firstFailing_cons_of_fails (by rw [Kind.ofFid_of_no_kind hnone, Option.isNone_none]),
      CommandResult.failure_error]

/-- Entries 4 to 7 on a payload are what the discriminator checks (43_frame_model.md R128). -/
theorem recognised_failure (c : Config) (chk : Byte) (p : List Byte) :
    (recognised c chk p).failure = firstFailing (modelChecks c p) := by
  cases p with
  | nil => rfl
  | cons fid args => exact discriminated_failure c fid args chk rfl

/-! ### The checks of the codec -/

/-- Entries 1 to 3 on wire bytes are what VALID checks; the checks of what follows it are reached on the payload of a valid
frame (42_decode.md R112, 44_pipeline.md R164). -/
theorem validated_failure (w : List Byte) {next : List Byte → Byte → CommandResult}
    {rest : List Byte → List (Bool × FrameError)} (hn : ∀ p e, (next p e).failure = firstFailing (rest p)) :
    (validated w next).failure = firstFailing (codecChecks w ++ rest (wirePayload w)) := by
  rw [codecChecks, List.cons_append]
  obtain ⟨hl, -⟩ | ⟨hl, hd, -⟩ | ⟨p, v, rfl⟩ := validate_cases w
  · rw [validated_of_short _ hl, firstFailing_cons_of_fails (decide_eq_true hl), CommandResult.failure_error]
  · rw [validated_of_head_ne _ hl hd, firstFailing_cons_of_passes (decide_eq_false hl.not_gt), List.cons_append,
      firstFailing_cons_of_fails (bne_iff_ne.2 hd), CommandResult.failure_error]
  · have hpayload : wirePayload (delimiter :: (p ++ [v])) = p := List.dropLast_concat
    have hfold : xorfold (delimiter :: (p ++ [v])).dropLast = checksum p := by
      rw [← List.cons_append, List.dropLast_concat, checksum]
    have hlast : (delimiter :: (p ++ [v])).getLast? = some v := by rw [← List.cons_append, List.getLast?_concat]
    rw [hpayload, hfold, hlast, firstFailing_cons_of_passes (by simp), List.cons_append,
      firstFailing_cons_of_passes (by rw [List.head?_cons, bne_self_eq_false]), List.cons_append, List.nil_append]
    by_cases hv : checksum p = v
    · subst hv
      rw [firstFailing_cons_of_passes (bne_self_eq_false _), ← wireEncode_eq, validated_wireEncode, hn]
    · rw [validated_of_checksum_ne _ hv, firstFailing_cons_of_fails (bne_iff_ne.2 (mt Option.some.inj hv)),
        CommandResult.failure_error]

/-! ### The statement about the order of the checks (60_exceptions.md) -/

/-- A command over a written input leaves the `STATUS` of its result. -/
theorem exec_command_status {i : Instr} (hf : i.format = .cmd) (hn : i ≠ .nop) {s : State} {bytes : List Byte}
    (hin : s.inputIs bytes) :
    ∃ t, exec i s = .next t ∧ t.status = statusWord (commandResult s.cfg s.kin i bytes).code := by
  obtain ⟨acc, idx, h⟩ := exec_command hf hn s.cfg s.kin bytes
  exact ⟨_, h s rfl rfl hin, rfl⟩

/-- Settles O37: each command's result reports the first failing check of the command's list, and `STATUS` is the result's
code. -/
theorem firstFailingCheckIsReported : Obligations.FirstFailingCheckIsReported := by
  intro s bytes i checks hin hi
  obtain ⟨hf, hn, hr⟩ : i.format = .cmd ∧ i ≠ .nop
      ∧ (commandResult s.cfg s.kin i bytes).failure = firstFailing checks := by
    obtain ⟨rfl, rfl⟩ | ⟨rfl, rfl⟩ | ⟨rfl, rfl⟩ | ⟨rfl | rfl, rfl⟩ := hi
    · exact ⟨rfl, by decide, validated_failure bytes (rest := fun _ => []) fun _ _ => rfl⟩
    · exact ⟨rfl, by decide, recognised_failure s.cfg 0x00 bytes⟩
    · exact ⟨rfl, by decide, validated_failure bytes fun p e => recognised_failure s.cfg e p⟩
    · exact ⟨rfl, by decide, discriminated_failure s.cfg s.kin bytes 0x00 rfl⟩
    · exact ⟨rfl, by decide, discriminated_failure s.cfg s.kin bytes 0x00 rfl⟩
  obtain ⟨t, ht, hst⟩ := exec_command_status hf hn hin
  refine ⟨t, ht, ?_⟩
  rw [hst, ← hr]
  cases commandResult s.cfg s.kin i bytes with
  | error e chk => rfl
  | ok kout chk out => exact statusWord_codeOK

end Sys2Proof.Machine

/-! SUPPORT. Which commands are refused, and what a reset in the middle of a command leaves
(70_reset_and_hazards.md). -/

namespace Sys2Proof.Machine

/-! ### Unwritten input -/

/-- The input is not all written exactly when `ILEN` covers a byte that holds no value (20_memory.md R54). -/
theorem State.not_inputWritten_iff {s : State} :
    ¬ s.inputWritten ↔ ∃ k, k < s.ilen.toNat ∧ Memory.read s.ibuf k = none := by
  simp [State.inputWritten, State.n]

/-- A command over a written input gives a next state, so only an unwritten byte makes it refuse. -/
theorem exec_command_refused_iff {i : Instr} (hf : i.format = .cmd) (hn : i ≠ .nop) {s : State} :
    exec i s = .refused .inputNotWritten ↔ ¬ s.inputWritten := by
  refine ⟨fun h hw => ?_, exec_command_of_not_written hf hn⟩
  cases hb : s.input with
  | none => exact s.input_eq_none.1 hb hw
  | some bytes =>
    obtain ⟨t, ht, -⟩ := exec_command_status hf hn ((s.input_eq_some bytes).1 hb)
    cases ht.symm.trans h

/-- Settles O12: a command is refused exactly on an input that is not all written, and NOP answers the state itself. -/
theorem unwrittenInputIsRefusedAndNopIsNot : Obligations.UnwrittenInputIsRefusedAndNopIsNot :=
  ⟨fun _ _ hf hn => (exec_command_refused_iff hf hn).trans State.not_inputWritten_iff, fun _ => rfl⟩

/-! ### Reset while a command runs -/

/-- What a reset keeps besides the stored bytes of `OBUF`: the build and the host's two lists (70_reset_and_hazards.md
R230; log 11). -/
def State.resetKeeps (s : State) : Config × List HostEvent × List PortWord := (s.cfg, s.port, s.replies)

/-- The state after a reset depends on nothing else of the state before it. -/
theorem State.applyReset_congr {s t : State} (h : t.resetKeeps = s.resetKeeps) :
    t.applyReset = { s.applyReset with obuf := t.obuf } := by
  obtain ⟨hcfg, hport, hreplies⟩ : t.cfg = s.cfg ∧ t.port = s.port ∧ t.replies = s.replies := by
    simpa only [State.resetKeeps, Prod.mk.injEq] using h
  rw [State.applyReset, hcfg, hport, hreplies, State.applyReset]

/-- `OLEN` is 0 after a reset, so no stored byte of `OBUF` is visible (10_state.md R21). -/
theorem State.applyReset_obufRead (s : State) (j : Nat) : s.applyReset.obufRead j = 0x00 :=
  State.obufRead_of_ge s.applyReset j (Nat.zero_le j)

/-- After a reset the host reads the same outputs whatever was before it. -/
theorem State.applyReset_sameOutputs (s t : State) : t.applyReset.sameOutputs s.applyReset :=
  ⟨rfl, rfl, rfl, rfl, fun j => (t.applyReset_obufRead j).trans (s.applyReset_obufRead j).symm⟩

/-- No loop of the datapath touches what a reset keeps. -/
theorem dpAfter_resetKeeps (i : Instr) (k : Nat) (s : State) : (dpAfter i k s).resetKeeps = s.resetKeeps :=
  dpAfter_keeps State.resetKeeps (fun _ _ => rfl) (fun _ _ _ => rfl) (fun _ => rfl) (fun _ => rfl) i k s

/-- Settles O15: a running command changes nothing that a reset keeps but the stored bytes of `OBUF`, which a reset
hides. -/
theorem resetAbandonsARunningCommand : Obligations.ResetAbandonsARunningCommand := by
  intro s t i k _ _ ht
  have hkeeps : t.resetKeeps = s.resetKeeps := by
    obtain rfl | rfl | ⟨j, rfl⟩ := ht
    · rfl
    · exact dpAfter_resetKeeps i k s
    · exact dpAfter_resetKeeps i k s
  exact ⟨State.applyReset_congr hkeeps, State.applyReset_sameOutputs s t, show (0x00 : Byte).getLsbD 7 = false by decide⟩

end Sys2Proof.Machine

/-! SUPPORT. Encodings: the rows of each format and their bytes, one the inverse of the other (30_encoding.md). -/

namespace Sys2Proof

open Sys2Proof.Machine

/-! ### The kinds and their rows -/

@[simp] theorem encode_ofKind (k : Kind) (args : List Byte) : encode (Instr.ofKind k args) = k.fid :: args := by
  cases k <;> rfl

@[simp] theorem format_ofKind (k : Kind) (args : List Byte) : (Instr.ofKind k args).format = .payload := by
  cases k <;> rfl

@[simp] theorem wellFormed_ofKind (c : Config) (k : Kind) (args : List Byte) :
    (Instr.ofKind k args).wellFormed c = argsFit c k args := by
  cases k <;> rfl

/-- The decoder gives the row of a kind for exactly its number of argument bytes (30_encoding.md R65). -/
theorem decodePayload_kind {c : Config} {k : Kind} {args : List Byte} (h : argsFit c k args = true) :
    decodePayload c (k.fid :: args) = .ok (Instr.ofKind k args) := by
  have hlen : args.length = c.arglenOf k := beq_iff_eq.1 h
  simp only [decodePayload, Kind.ofFid_fid, hlen, lt_irrefl, if_false]

/-! ### The reserved and the unassigned rows -/

/-- A Frame ID with a bit above its low three is no kind (30_encoding.md R67). -/
theorem Kind.ofFid_of_high_bit {fid : Byte} {n : Nat} (hn : 3 ≤ n) (h : fid.getLsbD n = true) :
    Kind.ofFid fid = none := by
  refine Kind.ofFid_of_no_kind ?_
  rintro k rfl
  have hlt : k.fid.toNat < 2 ^ n := by
    have h8 : 2 ^ 3 ≤ 2 ^ n := Nat.pow_le_pow_right (by decide) hn
    have hk : k.fid.toNat < 2 ^ 3 := by cases k <;> decide
    omega
  rw [BitVec.getLsbD, Nat.testBit_lt_two_pow hlt] at h
  cases h

/-- The decoder gives the reserved or an unassigned row for a Frame ID that is no kind and whatever fits after it
(30_encoding.md R66, R67, R77). -/
theorem decodePayload_noKind {c : Config} {fid : Byte} {rest : List Byte} (hk : Kind.ofFid fid = none)
    (hfit : fitsInput c (rest.length + 1) = true) : decodePayload c (fid :: rest) = .ok (decodeNoKind fid rest) := by
  have hle : rest.length + 1 ≤ c.nmax := of_decide_eq_true hfit
  simp only [decodePayload, hk, if_neg hle.not_gt]

/-- A vector with bit `n` set and none above it is the number 1 before its low `n` bits. -/
theorem one_append_of_highest_bit {m n : Nat} {b : BitVec (m + n)} (h : b.getLsbD n = true)
    (hz : ∀ i, n + 1 ≤ i → b.getLsbD i = false) : 1#m ++ b.extractLsb' 0 n = b := by
  have hhigh : b.extractLsb' n m = 1#m := by
    refine BitVec.eq_of_getLsbD_eq fun i hi => ?_
    rw [BitVec.getLsbD_extractLsb', BitVec.getLsbD_one]
    cases i with
    | zero => simp [h, hi]
    | succ i => simp [hz (n + (i + 1)) (by omega)]
  rw [← hhigh]
  exact BitVec.extractLsb'_append_extractLsb'

/-- A vector without bit `n` and without bits above it has no bit from `n` upward. -/
theorem getLsbD_eq_false_of_le {w n : Nat} {b : BitVec w} (hz : ∀ i, n + 1 ≤ i → b.getLsbD i = false)
    (h : ¬ b.getLsbD n = true) (i : Nat) (hi : n ≤ i) : b.getLsbD i = false := by
  obtain rfl | hlt := hi.eq_or_lt
  · exact Bool.eq_false_iff.2 h
  · exact hz i hlt

/-- Of the Frame IDs below 8 only 0x03 is no kind (30_encoding.md R66). -/
theorem Kind.eq_reserved_of_ofFid_none {fid : Byte} (hlt : fid.toNat < 8) (hk : Kind.ofFid fid = none) : fid = 0x03 := by
  have hall : ∀ n : Fin 8, Kind.ofFid (BitVec.ofNat 8 n) = none → BitVec.ofNat 8 n = (0x03 : Byte) := by decide
  simpa [hk] using hall ⟨fid.toNat, hlt⟩

/-- The number 1 before `n` bits has bit `n` set. -/
theorem getLsbD_one_append_self {m n : Nat} (hm : 0 < m) (x : BitVec n) : (1#m ++ x).getLsbD n = true := by
  rw [BitVec.getLsbD_append, if_neg (lt_irrefl n), Nat.sub_self, BitVec.getLsbD_one, decide_eq_true hm]
  rfl

/-- The number 1 before `n` bits has no bit above bit `n`. -/
theorem getLsbD_one_append_of_lt {m n i : Nat} (h : n < i) (x : BitVec n) : ¬ (1#m ++ x).getLsbD i = true := by
  rw [BitVec.getLsbD_append, if_neg h.not_gt, BitVec.getLsbD_one, decide_eq_false (p := i - n = 0) (by omega),
    Bool.and_false]
  exact Bool.false_ne_true

/-- The rows that are no kind, with the bytes after the Frame ID (30_encoding.md R66, R67). -/
def Instr.NoKindRow (i : Instr) (rest : List Byte) : Prop :=
  i = .reserved03 rest ∨ (∃ x, i = .unassigned08 x rest) ∨ (∃ x, i = .unassigned10 x rest)
    ∨ (∃ x, i = .unassigned20 x rest) ∨ (∃ x, i = .unassigned40 x rest) ∨ ∃ x, i = .unassigned80 x rest

/-- Such a row is the one that the highest set bit of its Frame ID chooses, and the Frame ID is no kind's. -/
theorem Instr.NoKindRow.eq_decodeNoKind {i : Instr} {rest : List Byte} (h : i.NoKindRow rest) :
    ∃ fid, encode i = fid :: rest ∧ Kind.ofFid fid = none ∧ decodeNoKind fid rest = i := by
  have high {m n : Nat} (hn : 3 ≤ n) (hm : 0 < m) (x : BitVec n) (b : Byte) (hb : b.toNat = (1#m ++ x).toNat) :
      Kind.ofFid b = none :=
    Kind.ofFid_of_high_bit hn ((congrArg (Nat.testBit · n) hb).trans (getLsbD_one_append_self hm x))
  rcases h with rfl | ⟨x, rfl⟩ | ⟨x, rfl⟩ | ⟨x, rfl⟩ | ⟨x, rfl⟩ | ⟨x, rfl⟩ <;> refine ⟨_, rfl, ?_, ?_⟩
  · rfl
  · rfl
  · exact high (by decide) (by decide) x _ rfl
  · rw [decodeNoKind]
    repeat rw [if_neg (getLsbD_one_append_of_lt (by decide) x)]
    rw [if_pos (getLsbD_one_append_self (by decide) x)]
    exact congrArg (Instr.unassigned08 · rest) BitVec.extractLsb'_append_eq_right
  · exact high (by decide) (by decide) x _ rfl
  · rw [decodeNoKind]
    repeat rw [if_neg (getLsbD_one_append_of_lt (by decide) x)]
    rw [if_pos (getLsbD_one_append_self (by decide) x)]
    exact congrArg (Instr.unassigned10 · rest) BitVec.extractLsb'_append_eq_right
  · exact high (by decide) (by decide) x _ rfl
  · rw [decodeNoKind]
    repeat rw [if_neg (getLsbD_one_append_of_lt (by decide) x)]
    rw [if_pos (getLsbD_one_append_self (by decide) x)]
    exact congrArg (Instr.unassigned20 · rest) BitVec.extractLsb'_append_eq_right
  · exact high (by decide) (by decide) x _ rfl
  · rw [decodeNoKind]
    repeat rw [if_neg (getLsbD_one_append_of_lt (by decide) x)]
    rw [if_pos (getLsbD_one_append_self (by decide) x)]
    exact congrArg (Instr.unassigned40 · rest) BitVec.extractLsb'_append_eq_right
  · exact high (by decide) (by decide) x _ rfl
  · rw [decodeNoKind, if_pos (getLsbD_one_append_self (by decide) x)]
    exact congrArg (Instr.unassigned80 · rest) BitVec.extractLsb'_append_eq_right

/-- The encoding of the row that the highest set bit chooses has the Frame ID as its first byte (30_encoding.md R66, R67). -/
theorem encode_decodeNoKind {fid : Byte} (hk : Kind.ofFid fid = none) (rest : List Byte) :
    encode (decodeNoKind fid rest) = fid :: rest := by
  have z8 (i : Nat) (hi : 8 ≤ i) : fid.getLsbD i = false := BitVec.getLsbD_of_ge fid i hi
  rw [decodeNoKind]
  split_ifs with h7 h6 h5 h4 h3
  · exact congrArg (· :: rest) (one_append_of_highest_bit (m := 1) h7 z8)
  all_goals have z7 := getLsbD_eq_false_of_le z8 h7
  · exact congrArg (· :: rest) (one_append_of_highest_bit (m := 2) h6 z7)
  all_goals have z6 := getLsbD_eq_false_of_le z7 h6
  · exact congrArg (· :: rest) (one_append_of_highest_bit (m := 3) h5 z6)
  all_goals have z5 := getLsbD_eq_false_of_le z6 h5
  · exact congrArg (· :: rest) (one_append_of_highest_bit (m := 4) h4 z5)
  all_goals have z4 := getLsbD_eq_false_of_le z5 h4
  · exact congrArg (· :: rest) (one_append_of_highest_bit (m := 5) h3 z4)
  have z3 := getLsbD_eq_false_of_le z4 h3
  have hlt : fid.toNat < 2 ^ 3 := Nat.lt_pow_two_of_testBit _ z3
  exact congrArg (· :: rest) (Kind.eq_reserved_of_ofFid_none hlt hk).symm

/-- The row of a Frame ID that is no kind is a payload row, and is well formed when it fits the buffer. -/
theorem decodeNoKind_row (c : Config) (fid : Byte) (rest : List Byte) :
    (decodeNoKind fid rest).format = .payload
      ∧ (decodeNoKind fid rest).wellFormed c = fitsInput c (rest.length + 1) := by
  rw [decodeNoKind]
  split_ifs <;> exact ⟨rfl, rfl⟩

/-- A well-formed row that is no kind decodes from its own bytes. -/
theorem Instr.NoKindRow.decode_encode {c : Config} {i : Instr} {rest : List Byte} (h : i.NoKindRow rest)
    (hw : i.wellFormed c = true) : decode c i.format (encode i) = .ok i := by
  obtain ⟨fid, he, hk, rfl⟩ := h.eq_decodeNoKind
  obtain ⟨hf, hfit⟩ := decodeNoKind_row c fid rest
  rw [he, hf]
  exact decodePayload_noKind hk (hfit ▸ hw)

/-! ### The formats -/

/-- An accepted payload is the bytes of its row, a well-formed one of that format (30_encoding.md R64 to R67). -/
theorem encode_of_decodePayload {c : Config} {bytes : List Byte} {i : Instr} (h : decodePayload c bytes = .ok i) :
    i.format = .payload ∧ i.wellFormed c = true ∧ encode i = bytes := by
  cases bytes with
  | nil => cases h
  | cons fid args =>
    rw [decodePayload] at h
    cases hk : Kind.ofFid fid with
    | some k =>
      simp only [hk] at h
      split_ifs at h with hlt hgt
      cases h
      have hlen : argsFit c k args = true := beq_iff_eq.2 (by omega)
      exact ⟨format_ofKind k args, (wellFormed_ofKind c k args).trans hlen, by rw [encode_ofKind, Kind.fid_of_ofFid hk]⟩
    | none =>
      simp only [hk] at h
      split_ifs at h with hgt
      cases h
      obtain ⟨hf, hw⟩ := decodeNoKind_row c fid args
      exact ⟨hf, hw.trans (decide_eq_true (Nat.le_of_not_lt hgt)), encode_decodeNoKind hk args⟩

/-- The decoder gives every frame that fits the buffer as delimiter, payload and checksum byte (30_encoding.md R61). -/
theorem decodeWire_frame (c : Config) (p : List Byte) (v : Byte) :
    decodeWire c (delimiter :: (p ++ [v])) =
      if c.nmax < p.length + 2 then .error .doesNotFit else .ok (.delim p v) := by
  have hlen : (delimiter :: (p ++ [v])).length = p.length + 2 := by simp
  have hlast : (delimiter :: (p ++ [v])).getLastD 0 = v := by
    rw [List.getLastD_eq_getLast?, ← List.cons_append, List.getLast?_concat, Option.getD_some]
  have hmid : ((delimiter :: (p ++ [v])).drop 1).take p.length = p := by simp
  rw [decodeWire, if_neg (by omega), if_neg (by simp), hlast, hlen, Nat.add_sub_cancel, hmid]

/-- Accepted wire bytes are the bytes of the frame. -/
theorem encode_of_decodeWire {c : Config} {bytes : List Byte} {i : Instr} (h : decodeWire c bytes = .ok i) :
    i.format = .wire ∧ i.wellFormed c = true ∧ encode i = bytes := by
  by_cases hl : bytes.length < 2
  · rw [decodeWire, if_pos hl] at h
    cases h
  · by_cases hd : bytes.headD 0 ≠ delimiter
    · rw [decodeWire, if_neg hl, if_pos hd] at h
      cases h
    · obtain _ | ⟨b, rest⟩ := bytes
      · simp at hl
      · obtain ⟨p, v, hw⟩ := frame_of_delimiter (Nat.le_of_not_lt hl) (congrArg some (of_not_not hd))
        rw [hw, decodeWire_frame] at h
        split_ifs at h with hgt
        cases h
        exact ⟨rfl, decide_eq_true (Nat.le_of_not_lt hgt), hw.symm⟩

/-- An accepted status code is the byte of its row (30_encoding.md R72). -/
theorem encode_of_decodeStatus {b : Byte} {i : Instr} (h : decodeStatus b = .ok i) :
    i.format = .status ∧ encode i = [b] := by
  unfold decodeStatus at h
  split at h <;> cases h <;> exact ⟨rfl, congrArg (fun b => [b]) (BitVec.eq_of_toNat_eq ‹_›).symm⟩

/-- A status row has no operand that could be ill formed. -/
theorem wellFormed_of_status {i : Instr} (h : i.format = .status) (c : Config) : i.wellFormed c = true := by
  cases i <;> simp [Instr.format, Instr.wellFormed] at h ⊢

/-! ### The statements about the encodings (30_encoding.md) -/

/-- Settles O3: the seven kinds by their Frame IDs, the rows that are no kind by the highest set bit of the Frame ID, the wire
frame by its three parts, and the commands and status codes by their one value. -/
theorem decodeOfEncodeIsTheInstruction : Obligations.DecodeOfEncodeIsTheInstruction := by
  intro c i _ hw
  cases i
  case ping args => exact decodePayload_kind (k := .ping) hw
  case assignID args => exact decodePayload_kind (k := .assignID) hw
  case requestData args => exact decodePayload_kind (k := .requestData) hw
  case setStandby args => exact decodePayload_kind (k := .setStandby) hw
  case setDischarge args => exact decodePayload_kind (k := .setDischarge) hw
  case setCharge args => exact decodePayload_kind (k := .setCharge) hw
  case announceCompletion args => exact decodePayload_kind (k := .announceCompletion) hw
  case reserved03 rest => exact Instr.NoKindRow.decode_encode (.inl rfl) hw
  case unassigned08 x rest => exact Instr.NoKindRow.decode_encode (.inr (.inl ⟨x, rfl⟩)) hw
  case unassigned10 x rest => exact Instr.NoKindRow.decode_encode (.inr (.inr (.inl ⟨x, rfl⟩))) hw
  case unassigned20 x rest => exact Instr.NoKindRow.decode_encode (.inr (.inr (.inr (.inl ⟨x, rfl⟩)))) hw
  case unassigned40 x rest => exact Instr.NoKindRow.decode_encode (.inr (.inr (.inr (.inr (.inl ⟨x, rfl⟩))))) hw
  case unassigned80 x rest => exact Instr.NoKindRow.decode_encode (.inr (.inr (.inr (.inr (.inr ⟨x, rfl⟩))))) hw
  case delim p v => exact (decodeWire_frame c p v).trans (if_neg (of_decide_eq_true hw : p.length + 2 ≤ c.nmax).not_gt)
  all_goals rfl

/-- Settles O4: bytes accepted in a format are those of the row they give. -/
theorem encodeOfDecodeIsTheBytes : Obligations.EncodeOfDecodeIsTheBytes := by
  intro c f bytes i _ hf h
  cases f with
  | cmd => exact absurd rfl hf
  | payload => exact encode_of_decodePayload h
  | wire => exact encode_of_decodeWire h
  | status =>
    obtain _ | ⟨b, _ | ⟨b', rest⟩⟩ := bytes
    · cases h
    · obtain ⟨hs, he⟩ := encode_of_decodeStatus h
      exact ⟨hs, wellFormed_of_status hs c, he⟩
    · cases h

/-- Settles O1: each word evaluates to its row. -/
theorem tableWordsDecodeToTheirRows : Obligations.TableWordsDecodeToTheirRows := by
  unfold Obligations.TableWordsDecodeToTheirRows
  decide

/-- Settles O2: the upper bits fall away modulo 8, and the eight codes name the eight commands. -/
theorem commandIsTheLowThreeBitsWritten : Obligations.CommandIsTheLowThreeBitsWritten := by
  intro hi op
  have hlow : (hi ++ op : BitVec 16).toNat % 8 = (op.setWidth 16 : PortWord).toNat % 8 := by
    have hop : (hi ++ op).toNat % 8 = op.toNat := by
      simpa only [BitVec.extractLsb'_toNat, Nat.shiftRight_zero] using
        congrArg BitVec.toNat (BitVec.extractLsb'_append_eq_right (a := hi) (b := op))
    rw [BitVec.toNat_setWidth_of_le (by decide), ← hop, Nat.mod_mod]
  have hall : ∀ op : BitVec 3, [Instr.nop, .csum, .enc, .dec, .ser, .des, .tx, .rx][op.toNat]? =
      some (decodeCmd (op.setWidth 16)) := by decide
  rw [decodeCmd_congr hlow, hall]

end Sys2Proof

/-! SUPPORT. The rows as instructions: every row delivers one result, over the hidden registers that its loop, if it has one,
has left (00_scope.md R9; log 4, log 12). -/

namespace Sys2Proof.Machine

/-! ### The length of the input -/

theorem State.inputIs.length_eq {s : State} {bytes : List Byte} (h : s.inputIs bytes) : bytes.length = s.n := by
  obtain ⟨hlen, -⟩ := h
  exact hlen

/-- The input of a command fits the input buffer (10_state.md R16). -/
theorem State.Sized.input_length_le {s : State} (hs : s.Sized) {bytes : List Byte} (h : s.inputIs bytes) :
    bytes.length ≤ s.cfg.nmax :=
  h.length_eq.trans_le hs.ilen

/-! ### The commands, with their hidden registers -/

/-- How many input bytes a command has stepped over at its end (10_state.md R23; log 6). The rows of the other formats have no
input sequence, and no lemma gives this value a meaning for them or for NOP. -/
def commandIdx (c : Config) (kin : Byte) (i : Instr) (bytes : List Byte) : Nat :=
  match i with
  | .csum | .enc => bytes.length
  | .dec | .rx => validatedBytes bytes
  | .des => discriminatedBytes c bytes
  | .ser | .tx =>
    match disc c kin bytes.length with
    | .error _ => 0
    | .ok _ => bytes.length
  | _ => 0

theorem validatedBytes_le (w : List Byte) : validatedBytes w ≤ w.length := by
  unfold validatedBytes
  split_ifs <;> omega

theorem discriminatedBytes_le (c : Config) (p : List Byte) : discriminatedBytes c p ≤ p.length := by
  unfold discriminatedBytes
  cases deserialize c p with
  | error e => exact Nat.zero_le _
  | ok f => exact le_rfl

theorem commandIdx_le (c : Config) (kin : Byte) (i : Instr) (bytes : List Byte) :
    commandIdx c kin i bytes ≤ bytes.length := by
  have hdisc : (match disc c kin bytes.length with | .error _ => 0 | .ok _ => bytes.length) ≤ bytes.length := by
    cases disc c kin bytes.length with
    | error e => exact Nat.zero_le _
    | ok k => exact le_rfl
  cases i
  case csum => exact le_rfl
  case enc => exact le_rfl
  case dec => exact validatedBytes_le bytes
  case rx => exact validatedBytes_le bytes
  case des => exact discriminatedBytes_le c bytes
  case ser => exact hdisc
  case tx => exact hdisc
  all_goals exact Nat.zero_le _

/-- Unframing delivers DEC's result, with the checksum in `ACC` (42_decode.md R112). -/
theorem State.unframe_eq (w : List Byte) (s : State) :
    s.unframe w = (s.ran (commandResult s.cfg s.kin .dec w).chk (validatedBytes w)).deliver
      (commandResult s.cfg s.kin .dec w) := by
  rcases hv : validate w with ⟨e, v⟩ | ⟨p, v⟩ <;> simp only [State.unframe, commandResult, validated, hv] <;> rfl

/-- A command over a written input delivers its result; its loop has left in `ACC` the checksum that it reports
(10_state.md R18, R22; log 6). -/
theorem exec_command_eq {i : Instr} (hf : i.format = .cmd) (hn : i ≠ .nop) {s : State} {bytes : List Byte}
    (hin : s.inputIs bytes) :
    exec i s = .next ((s.ran (commandResult s.cfg s.kin i bytes).chk (commandIdx s.cfg s.kin i bytes)).deliver
      (commandResult s.cfg s.kin i bytes)) := by
  rcases Instr.cmd_cases hf hn with rfl | rfl | rfl | rfl | rfl | rfl | rfl <;> refine withInput_deliver hin ?_
  · rfl
  · rfl
  · exact s.unframe_eq bytes
  · simp only [commandResult, commandIdx, discriminated]
    cases disc s.cfg s.kin bytes.length <;> rfl
  · rw [State.discriminate_eq]
    simp only [commandResult, recognised_chk, State.ran_cfg, State.ran_acc]
    rfl
  · simp only [commandResult, commandIdx, discriminated]
    cases disc s.cfg s.kin bytes.length <;> rfl
  · rcases hv : validate bytes with ⟨e, v⟩ | ⟨p, v⟩
    · simp only [commandResult, validated, hv]
      rfl
    · simp only [commandResult, validated, hv, State.discriminate_eq, recognised_chk, State.ran_cfg, State.ran_acc]
      rfl

/-! ### The rows of the other formats -/

/-- A payload row is its bytes before the discriminator (43_frame_model.md R128; log 4). -/
theorem exec_payload {i : Instr} (hf : i.format = .payload) (s : State) :
    exec i s = .next (s.discriminate (encode i)) := by
  cases i <;> cases hf <;> rfl

/-- A wire row is its bytes before the validator (42_decode.md R112; log 4). -/
theorem exec_wire {i : Instr} (hf : i.format = .wire) (s : State) : exec i s = .next (s.unframe (encode i)) := by
  cases i <;> cases hf
  rfl

/-- The STATUS row of an error (30_encoding.md R72). -/
def FrameError.row : FrameError → Instr
  | .tooShort => .stTooShort
  | .badDelimiter => .stBadDelimiter
  | .badChecksum => .stBadChecksum
  | .unknownFrameId => .stUnknownFrameId
  | .truncatedPayload => .stTruncatedPayload
  | .trailingBytes => .stTrailingBytes

/-- What the STATUS row of an error reports as checksum, from what `ACC` holds (60_exceptions.md R201 to R206; log 12). -/
def FrameError.reported : FrameError → Byte → Byte
  | .tooShort, _ => 0x00
  | .badDelimiter, _ => 0x00
  | .badChecksum, acc => acc
  | .unknownFrameId, acc => acc
  | .truncatedPayload, acc => acc
  | .trailingBytes, acc => acc

theorem FrameError.exec_row (e : FrameError) (s : State) : exec e.row s = .next (s.raise e (e.reported s.acc)) := by
  cases e <;> rfl

theorem FrameError.decodeStatus_code (e : FrameError) : decodeStatus (statusWord e.code) = .ok e.row := by
  cases e <;> rfl

theorem FrameError.row_ne_stOK (e : FrameError) : e.row ≠ .stOK := by
  cases e <;> decide

/-- The STATUS rows are ST_OK and one for each error. -/
theorem Instr.status_cases {i : Instr} (hf : i.format = .status) : i = .stOK ∨ ∃ e : FrameError, i = e.row := by
  cases i <;> cases hf
  case stOK => exact .inl rfl
  case stTooShort => exact .inr ⟨.tooShort, rfl⟩
  case stBadDelimiter => exact .inr ⟨.badDelimiter, rfl⟩
  case stBadChecksum => exact .inr ⟨.badChecksum, rfl⟩
  case stUnknownFrameId => exact .inr ⟨.unknownFrameId, rfl⟩
  case stTruncatedPayload => exact .inr ⟨.truncatedPayload, rfl⟩
  case stTrailingBytes => exact .inr ⟨.trailingBytes, rfl⟩

/-! ### What every row can do -/

/-- A result of the build: its output fits the output buffer, and its kind is one of the seven or none (10_state.md R15,
R17). -/
structure CommandResult.Fits (r : CommandResult) (c : Config) : Prop where
  out : r.out.length ≤ c.nmax + 3
  kout : r.kout = 0xFF ∨ ∃ k : Kind, r.kout = k.fid

theorem CommandResult.error_fits (e : FrameError) (chk : Byte) (c : Config) : (CommandResult.error e chk).Fits c :=
  ⟨Nat.zero_le _, .inl rfl⟩

theorem recognised_fits (c : Config) (chk : Byte) {p : List Byte} (h : p.length ≤ c.nmax) :
    (recognised c chk p).Fits c := by
  cases hr : recognised c chk p with
  | error e v => exact CommandResult.error_fits e v c
  | ok kout v out =>
    obtain ⟨rfl, k, hk, -⟩ := recognised_eq_ok hr
    rw [List.length_cons] at h
    exact ⟨show out.length ≤ c.nmax + 3 by omega, .inr ⟨k, hk⟩⟩

theorem commandResult_fits {i : Instr} (hf : i.format = .cmd) (hn : i ≠ .nop) (c : Config) (kin : Byte)
    {bytes : List Byte} (h : bytes.length ≤ c.nmax) : (commandResult c kin i bytes).Fits c := by
  refine ⟨(commandResult_out_length hf hn c kin bytes).trans (Nat.add_le_add_right h 3), ?_⟩
  by_cases hi : i = .des ∨ i = .rx
  · cases hr : commandResult c kin i bytes with
    | error e v => exact .inl rfl
    | ok kout v out =>
      obtain rfl | rfl := hi
      · obtain ⟨-, k, hk, -⟩ := recognised_eq_ok hr
        exact .inr ⟨k, hk⟩
      · obtain ⟨-, k, hk, -⟩ := commandResult_rx_eq_ok hr
        exact .inr ⟨k, hk⟩
  · exact .inl (commandResult_kout hf hn hi c kin bytes)

/-- The bytes of every well-formed instruction fit the input buffer (00_scope.md R7, 30_encoding.md R77). -/
theorem encodeFits : ∀ i : Instr, Laws.EncodeFits.Statement i
  | .nop => Laws.EncodeFits.nop
  | .csum => Laws.EncodeFits.csum
  | .enc => Laws.EncodeFits.enc
  | .dec => Laws.EncodeFits.dec
  | .ser => Laws.EncodeFits.ser
  | .des => Laws.EncodeFits.des
  | .tx => Laws.EncodeFits.tx
  | .rx => Laws.EncodeFits.rx
  | .ping args => Laws.EncodeFits.ping args
  | .assignID args => Laws.EncodeFits.assignID args
  | .requestData args => Laws.EncodeFits.requestData args
  | .setStandby args => Laws.EncodeFits.setStandby args
  | .setDischarge args => Laws.EncodeFits.setDischarge args
  | .setCharge args => Laws.EncodeFits.setCharge args
  | .announceCompletion args => Laws.EncodeFits.announceCompletion args
  | .reserved03 rest => Laws.EncodeFits.reserved03 rest
  | .unassigned08 x rest => Laws.EncodeFits.unassigned08 x rest
  | .unassigned10 x rest => Laws.EncodeFits.unassigned10 x rest
  | .unassigned20 x rest => Laws.EncodeFits.unassigned20 x rest
  | .unassigned40 x rest => Laws.EncodeFits.unassigned40 x rest
  | .unassigned80 x rest => Laws.EncodeFits.unassigned80 x rest
  | .delim payload checksum => Laws.EncodeFits.delim payload checksum
  | .stOK => Laws.EncodeFits.stOK
  | .stTooShort => Laws.EncodeFits.stTooShort
  | .stBadDelimiter => Laws.EncodeFits.stBadDelimiter
  | .stBadChecksum => Laws.EncodeFits.stBadChecksum
  | .stUnknownFrameId => Laws.EncodeFits.stUnknownFrameId
  | .stTruncatedPayload => Laws.EncodeFits.stTruncatedPayload
  | .stTrailingBytes => Laws.EncodeFits.stTrailingBytes

/-- Whatever a well-formed row answers as a next state is the state itself, for NOP, or a result of the build delivered in
it (00_scope.md R9). -/
theorem exec_next_cases {i : Instr} {s t : State} (hs : s.Sized) (hw : i.wellFormed s.cfg = true)
    (h : exec i s = .next t) :
    t = s ∨ ∃ acc idx r, t = (s.ran acc idx).deliver r ∧ r.Fits s.cfg ∧ idx ≤ s.cfg.nmax + 3 := by
  have hbytes := (encodeFits i _ hs.cfg hw).2
  cases hf : i.format with
  | cmd =>
    by_cases hn : i = .nop
    · subst hn
      cases h
      exact .inl rfl
    · cases hb : s.input with
      | none => cases (exec_command_of_not_written hf hn (s.input_eq_none.1 hb)).symm.trans h
      | some bytes =>
        have hin := (s.input_eq_some bytes).1 hb
        have hlen := hs.input_length_le hin
        have hidx := commandIdx_le s.cfg s.kin i bytes
        cases (exec_command_eq hf hn hin).symm.trans h
        exact .inr ⟨_, _, _, rfl, commandResult_fits hf hn s.cfg s.kin hlen, by omega⟩
  | payload =>
    cases (exec_payload hf s).symm.trans h
    exact .inr ⟨s.acc, s.idx, _, s.discriminate_eq (encode i), recognised_fits s.cfg s.acc hbytes, hs.idx⟩
  | wire =>
    have hidx := validatedBytes_le (encode i)
    cases (exec_wire hf s).symm.trans h
    exact .inr ⟨_, _, _, s.unframe_eq (encode i), commandResult_fits rfl (by decide) s.cfg s.kin hbytes, by omega⟩
  | status =>
    obtain rfl | ⟨e, rfl⟩ := Instr.status_cases hf
    · cases h
      exact .inr ⟨s.acc, s.idx, .ok 0xFF s.acc [], rfl, ⟨Nat.zero_le _, .inl rfl⟩, hs.idx⟩
    · cases (e.exec_row s).symm.trans h
      exact .inr ⟨s.acc, s.idx, .error e _, rfl, CommandResult.error_fits _ _ _, hs.idx⟩

section
variable (acc : Byte) (idx : Nat) (s : State)

/-- An error delivered over any hidden registers is a completion with its code (60_exceptions.md R207). -/
theorem State.ran_deliver_error_completesTo (e : FrameError) (chk : Byte) :
    s.completesTo ((s.ran acc idx).deliver (.error e chk)) (statusWord e.code) 0xFF chk [] :=
  State.ran_deliver_completesTo acc idx _ s (Nat.two_pow_pos 16)

/-- A success delivered over any hidden registers is a completion with its outputs (00_scope.md R9). -/
theorem State.ran_deliver_ok_completesTo (kout chk : Byte) {out : List Byte} (h : out.length < 2 ^ 16) :
    s.completesTo ((s.ran acc idx).deliver (.ok kout chk out)) 0x80 kout chk out :=
  statusWord_codeOK ▸ State.ran_deliver_completesTo acc idx (.ok kout chk out) s h

end

/-- An error delivered over the hidden registers as they are. -/
theorem State.deliver_error_completesTo (e : FrameError) (chk : Byte) (s : State) :
    s.completesTo (s.deliver (.error e chk)) (statusWord e.code) 0xFF chk [] :=
  State.ran_deliver_error_completesTo s.acc s.idx s e chk

/-- A success delivered over the hidden registers as they are. -/
theorem State.deliver_ok_completesTo (kout chk : Byte) {out : List Byte} (h : out.length < 2 ^ 16) (s : State) :
    s.completesTo (s.deliver (.ok kout chk out)) 0x80 kout chk out :=
  State.ran_deliver_ok_completesTo s.acc s.idx s kout chk h

/-! ### Errors and the checksum they report -/

/-- DISC reports errors of the Frame Model only. -/
theorem disc_error_reported {c : Config} {fid : Byte} {m : Nat} {e : FrameError} (h : disc c fid m = .error e)
    (acc : Byte) : e.reported acc = acc := by
  unfold disc at h
  cases hk : discLookup c fid with
  | none =>
    rw [hk] at h
    cases h
    rfl
  | some ka =>
    simp only [hk] at h
    split_ifs at h <;> cases h <;> rfl

theorem recognised_error_reported {c : Config} {chk chk' : Byte} {p : List Byte} {e : FrameError}
    (h : recognised c chk p = .error e chk') : e.reported chk = chk := by
  cases p with
  | nil =>
    cases h
    rfl
  | cons fid args =>
    cases hd : disc c fid args.length with
    | error e' =>
      cases (discriminated_of_error chk _ hd).symm.trans h
      exact disc_error_reported hd chk
    | ok k => cases (discriminated_of_ok chk _ hd).symm.trans h

/-- VALID reports 0x00 for the two errors that it finds before it has folded anything (10_state.md R18). -/
theorem validated_error_reported {w : List Byte} {next : List Byte → Byte → CommandResult} {e : FrameError} {chk : Byte}
    (hn : ∀ p v, next p v = .error e chk → e.reported chk = chk) (h : validated w next = .error e chk) :
    e.reported chk = chk := by
  obtain ⟨hl, -⟩ | ⟨hl, hd, -⟩ | ⟨p, v, rfl⟩ := validate_cases w
  · cases (validated_of_short next hl).symm.trans h
    rfl
  · cases (validated_of_head_ne next hl hd).symm.trans h
    rfl
  · by_cases hv : checksum p = v
    · subst hv
      exact hn p _ ((validated_wireEncode next p).symm.trans h)
    · cases (validated_of_checksum_ne next hv).symm.trans h
      rfl

/-- A command that fails reports what the STATUS row of its error reports when `ACC` holds that checksum. -/
theorem commandResult_error_reported {i : Instr} (hf : i.format = .cmd) (hn : i ≠ .nop) {c : Config} {kin chk : Byte}
    {bytes : List Byte} {e : FrameError} (h : commandResult c kin i bytes = .error e chk) : e.reported chk = chk := by
  have hdisc {success : CommandResult} (hs : success.failure = none)
      (h : discriminated c kin bytes.length 0x00 success = .error e chk) : e.reported chk = chk := by
    cases hd : disc c kin bytes.length with
    | error e' =>
      cases (discriminated_of_error _ success hd).symm.trans h
      exact disc_error_reported hd _
    | ok k =>
      cases (discriminated_of_ok _ success hd).symm.trans h
      cases hs
  rcases Instr.cmd_cases hf hn with rfl | rfl | rfl | rfl | rfl | rfl | rfl
  · cases h
  · cases h
  · exact validated_error_reported (fun p v hp => by cases hp) h
  · exact hdisc rfl h
  · have hchk : chk = 0x00 := (congrArg CommandResult.chk h).symm.trans (recognised_chk c 0x00 bytes)
    exact hchk ▸ recognised_error_reported h
  · exact hdisc rfl h
  · refine validated_error_reported (fun p v hp => ?_) h
    have hchk : chk = v := (congrArg CommandResult.chk hp).symm.trans (recognised_chk c v p)
    exact hchk ▸ recognised_error_reported hp

/-! ### The statements about the rows -/

/-- Settles O7: the row has the input as its bytes, and both are the discriminator on them. -/
theorem desRunsThePayloadRowOfItsInput : Obligations.DesRunsThePayloadRowOfItsInput := by
  intro s bytes i hin hi
  obtain ⟨hf, -, rfl⟩ := encode_of_decodePayload hi
  exact ⟨_, (withInput_of_inputIs s _ _ hin).trans (exec_payload hf _).symm⟩

/-- Settles O8: DEC and the wire row are the validator on the same bytes; RX behind a good frame and the payload row are the
discriminator on the same payload. -/
theorem decAndRxRunTheRowsOfTheirInput : Obligations.DecAndRxRunTheRowsOfTheirInput := by
  intro s bytes hin
  constructor
  · intro i hi
    obtain ⟨hf, -, rfl⟩ := encode_of_decodeWire hi
    exact (withInput_of_inputIs s _ _ hin).trans (exec_wire hf s).symm
  · rintro p i rfl hi
    obtain ⟨hf, -, rfl⟩ := encode_of_decodePayload hi
    have hrx : exec .rx s =
        .next ((s.ran (checksum (encode i)) (validatedBytes (wireEncode (encode i)))).discriminate (encode i)) := by
      refine (withInput_of_inputIs s _ _ hin).trans ?_
      rw [← wireEncode_eq, validate_wireEncode]
    exact ⟨_, hrx.trans (exec_payload hf _).symm⟩

/-- Settles O9: the result is an error, `STATUS` is its code, and its row raises it again. -/
theorem everyFailureIsAStatusRow : Obligations.EveryFailureIsAStatusRow := by
  intro s t i hf hn h hst
  cases hb : s.input with
  | none => cases (exec_command_of_not_written hf hn (s.input_eq_none.1 hb)).symm.trans h
  | some bytes =>
    cases (exec_command_eq hf hn ((s.input_eq_some bytes).1 hb)).symm.trans h
    obtain ⟨e, he⟩ := CommandResult.eq_error_of_status _ hst
    have hrep := commandResult_error_reported hf hn he
    rw [he] at hrep ⊢
    refine ⟨e.row, commandIdx s.cfg s.kin i bytes, e.decodeStatus_code, e.row_ne_stOK, (e.exec_row _).trans ?_⟩
    exact congrArg (fun chk => Host.Outcome.next (State.raise e chk _)) hrep

/-- Settles O27: the three verdicts of DISC on a kind's Frame ID. -/
theorem kindRowsAreRecognised : Obligations.KindRowsAreRecognised := by
  intro s k args hc
  have hroom := (Laws.Config.wf_room s.cfg hc).2 k
  have hport := Config.nmax_add_three_lt_port hc
  have hexec : exec (Instr.ofKind k args) s = .next (s.deliver (recognised s.cfg s.acc (k.fid :: args))) := by
    rw [exec_payload (format_ofKind k args), encode_ofKind, State.discriminate_eq]
  refine ⟨_, hexec, rfl, rfl, fun heq => ?_, fun hlt => ?_, fun hgt => ?_⟩
  · rw [recognised_frame s.acc heq]
    exact s.deliver_ok_completesTo k.fid s.acc (by omega)
  · rw [recognised, discriminated_of_error _ _ (disc_of_lt hlt)]
    exact s.deliver_error_completesTo .truncatedPayload s.acc
  · rw [recognised, discriminated_of_error _ _ (disc_of_gt hgt)]
    exact s.deliver_error_completesTo .trailingBytes s.acc

/-- Settles O28: DISC's first check fails on the Frame ID of such a row. -/
theorem rowsWithNoKindRaiseUnknownFrameId : Obligations.RowsWithNoKindRaiseUnknownFrameId := by
  intro s i rest hi
  obtain ⟨fid, he, hk, rfl⟩ := Instr.NoKindRow.eq_decodeNoKind hi
  have hnone (k : Kind) : k.fid ≠ fid := by
    rintro rfl
    cases (Kind.ofFid_fid k).symm.trans hk
  have hexec : exec (decodeNoKind fid rest) s = .next (s.deliver (.error .unknownFrameId s.acc)) := by
    rw [exec_payload (decodeNoKind_row s.cfg fid rest).1, he, State.discriminate_eq, recognised,
      discriminated_of_error _ _ (disc_of_no_kind _ _ hnone)]
  exact ⟨_, hexec, s.deliver_error_completesTo .unknownFrameId s.acc, rfl, rfl⟩

/-- Settles O29: the validator compares the last byte with the checksum of the payload. -/
theorem delimRowIsValidated : Obligations.DelimRowIsValidated := by
  intro s p c hc hw
  have hlen : p.length + 2 ≤ s.cfg.nmax := of_decide_eq_true hw
  have hport := Config.nmax_add_three_lt_port hc
  have hexec : exec (.delim p c) s = .next (s.unframe (delimiter :: (p ++ [c]))) := exec_wire rfl s
  rw [State.unframe_eq, commandResult] at hexec
  refine ⟨_, hexec, fun heq => ?_, fun hne => ?_⟩
  · obtain rfl : c = checksum p := heq.trans (checksum_eq_xor p).symm
    rw [← wireEncode_eq, validated_wireEncode]
    exact s.ran_deliver_ok_completesTo _ _ 0xFF (checksum p) (by omega)
  · rw [← checksum_eq_xor] at hne ⊢
    rw [validated_of_checksum_ne _ hne.symm]
    exact s.ran_deliver_error_completesTo _ _ .badChecksum (checksum p)

/-- Settles O30: each row is one completion, with its code. -/
theorem statusRowsComplete : Obligations.StatusRowsComplete := by
  rintro s i st chk (⟨rfl, rfl, rfl⟩ | ⟨rfl, rfl, rfl⟩ | ⟨rfl, rfl, rfl⟩ | ⟨rfl, rfl, rfl⟩ | ⟨rfl, rfl, rfl⟩ |
    ⟨rfl, rfl, rfl⟩ | ⟨rfl, rfl, rfl⟩)
  · exact ⟨_, rfl, s.deliver_ok_completesTo 0xFF s.acc (out := []) (Nat.two_pow_pos 16), rfl, rfl⟩
  · exact ⟨_, rfl, s.deliver_error_completesTo .tooShort 0x00, rfl, rfl⟩
  · exact ⟨_, rfl, s.deliver_error_completesTo .badDelimiter 0x00, rfl, rfl⟩
  · exact ⟨_, rfl, s.deliver_error_completesTo .badChecksum s.acc, rfl, rfl⟩
  · exact ⟨_, rfl, s.deliver_error_completesTo .unknownFrameId s.acc, rfl, rfl⟩
  · exact ⟨_, rfl, s.deliver_error_completesTo .truncatedPayload s.acc, rfl, rfl⟩
  · exact ⟨_, rfl, s.deliver_error_completesTo .trailingBytes s.acc, rfl, rfl⟩

/-- Settles O31: NOP changes nothing, and every other row is one completion. -/
theorem rowsLeaveInputsAndHigherOutputCells : Obligations.RowsLeaveInputsAndHigherOutputCells := by
  intro s t i hs hw h
  obtain rfl | ⟨acc, idx, r, rfl, hr, -⟩ := exec_next_cases hs hw h
  · exact ⟨⟨rfl, rfl, rfl, rfl, rfl, rfl⟩, fun _ _ => rfl⟩
  · have hc := State.ran_deliver_completesTo acc idx r s (hr.out.trans_lt (Config.nmax_add_three_lt_port hs.cfg))
    obtain ⟨-, hin, -, hobuf⟩ := id hc
    exact ⟨hin, hc.olen ▸ hobuf⟩

/-! ### STATUS -/

/-- The three fields of a `STATUS` value (10_state.md R13). -/
theorem statusWord_fields (code : BitVec 4) :
    (statusWord code).getLsbD 7 = true ∧ (statusWord code).extractLsb' 4 3 = 0#3
      ∧ (statusWord code).extractLsb' 0 4 = code := by
  revert code
  decide

theorem CommandResult.code_le (r : CommandResult) : r.code.toNat ≤ 6 := by
  cases r with
  | error e chk =>
    rw [CommandResult.code_error]
    cases e <;> decide
  | ok kout chk out => exact Nat.zero_le _

/-- Settles O33: `STATUS` is the word of the result's code, and a completion overwrites what it held. -/
theorem statusDescribesTheLastCommandOnly : Obligations.StatusDescribesTheLastCommandOnly := by
  intro s i hf hn _
  refine ⟨fun t h => ?_, fun x => ?_, State.hostWrite_output_register (by decide) (s := s), rfl⟩
  · cases hb : s.input with
    | none => cases (exec_command_of_not_written hf hn (s.input_eq_none.1 hb)).symm.trans h
    | some bytes =>
      cases (exec_command_eq hf hn ((s.input_eq_some bytes).1 hb)).symm.trans h
      obtain ⟨hvld, hzero, hcode⟩ := statusWord_fields (commandResult s.cfg s.kin i bytes).code
      exact ⟨hvld, hzero, (congrArg BitVec.toNat hcode).trans_le (CommandResult.code_le _)⟩
  · cases hb : s.input with
    | none =>
      have hnot := s.input_eq_none.1 hb
      rw [exec_command_of_not_written hf hn hnot, exec_command_of_not_written hf hn (s := { s with status := x }) hnot]
    | some bytes =>
      have hin := (s.input_eq_some bytes).1 hb
      rw [exec_command_eq hf hn hin, exec_command_eq hf hn (s := { s with status := x }) hin]
      rfl

/-! ### The invariant -/

/-- A result of the build delivered keeps the bounds, and stores the bytes of the output sequence it reports. -/
theorem State.Sized.ran_deliver {s : State} (hs : s.Sized) (acc : Byte) {idx : Nat} (hidx : idx ≤ s.cfg.nmax + 3)
    {r : CommandResult} (hr : r.Fits s.cfg) : ((s.ran acc idx).deliver r).Sized := by
  have holen : ((s.ran acc idx).deliver r).olen.toNat = r.out.length :=
    State.complete_olen_toNat _ _ _ _ _ (hr.out.trans_lt (Config.nmax_add_three_lt_port hs.cfg))
  exact
    { cfg := hs.cfg
      ilen := hs.ilen
      olen := holen.trans_le hr.out
      idx := hidx
      ibuf := hs.ibuf
      obuf := Memory.writeList_wf _ 0 r.out hs.obuf
      ibufBelow := hs.ibufBelow
      obufBelow := Memory.writeList_below _ 0 _ r.out hs.obufBelow ((Nat.zero_add _).trans_le hr.out)
      stored := fun j hj => by
        rw [holen] at hj
        rw [State.deliver, State.complete_obuf, Memory.read_writeList, if_pos (by omega), Nat.sub_zero,
          List.getElem?_eq_getElem hj, Option.isSome_some] }

/-- No error's code is the value before the first command (30_encoding.md R73). -/
theorem statusWord_error_ne_zero (e : FrameError) : statusWord e.code ≠ 0x00 := by
  cases e <;> decide

/-- A result of the build delivered is what the outputs describe, whatever they described before. -/
theorem State.settled_deliver (s : State) {r : CommandResult} {c : Config} (hr : r.Fits c) : (s.deliver r).Settled := by
  cases r with
  | error e chk =>
    exact
      { status := .inr (.inr ⟨e, rfl⟩)
        reset := fun h => absurd h (statusWord_error_ne_zero e)
        error := fun _ => ⟨rfl, rfl⟩
        kout := .inl rfl
        ph := rfl }
  | ok kout chk out =>
    have hst : (s.deliver (.ok kout chk out)).status = 0x80 := statusWord_codeOK
    exact
      { status := .inr (.inl hst)
        reset := fun h => absurd (hst.symm.trans h) (by decide)
        error := fun h => absurd hst h
        kout := hr.kout
        ph := rfl }

/-- A well-formed row keeps the invariant. -/
theorem State.Inv.exec_next {s t : State} (hinv : s.Inv) {i : Instr} (hw : i.wellFormed s.cfg = true)
    (h : exec i s = .next t) : t.Inv := by
  obtain rfl | ⟨acc, idx, r, rfl, hr, hidx⟩ := exec_next_cases hinv.sized hw h
  · exact hinv
  · exact ⟨hinv.sized.ran_deliver acc hidx hr, State.settled_deliver _ hr⟩

/-- Settles O18: a row is NOP or delivers a result of the build. -/
theorem everyRowKeepsTheInvariant : Obligations.EveryRowKeepsTheInvariant :=
  fun _ _ _ hinv hw h => hinv.exec_next hw h

end Sys2Proof.Machine

/-! SUPPORT. The step: what each event of the outside does, and that the port accepts it and keeps the invariant
(20_memory.md R41 to R44, 70_reset_and_hazards.md R230, R242). -/

namespace Sys2Proof.Machine

/-! ### Events -/

theorem step_of_nil {s : State} (h : s.port = []) : step s = .next s := by
  rw [step, State.takeEvent, h]

theorem step_of_cons {s : State} {e : HostEvent} {rest : List HostEvent} (h : s.port = e :: rest) :
    step s = State.hostEvent e { s with port := rest } := by
  rw [step, State.takeEvent, h]

theorem State.hostEvent_read (s : State) {a : Nat} (h : a < 2 ^ addressBits s.cfg) :
    State.hostEvent (.read a) s = .next { s with replies := s.replies ++ [s.hostRead a] } := if_pos h

theorem State.hostEvent_write (s : State) {a : Nat} (h : a < 2 ^ addressBits s.cfg) (v : PortWord) :
    State.hostEvent (.write a v) s = State.hostWrite a v s := if_pos h

theorem State.hostEvent_reset (s : State) : State.hostEvent .reset s = .next s.applyReset := rfl

theorem State.hostEvent_wide (s : State) {a : Nat} (h : 2 ^ addressBits s.cfg ≤ a) {e : HostEvent} {v : PortWord}
    (he : e = .read a ∨ e = .write a v) : State.hostEvent e s = .fault .notAPortAddress := by
  obtain rfl | rfl := he
  · exact if_neg h.not_gt
  · exact if_neg h.not_gt

/-- Settles O5: the step takes the oldest event, and each event has its own effect. -/
theorem stepPerformsTheNextHostEvent : Obligations.StepPerformsTheNextHostEvent := by
  intro s rest
  refine ⟨step_of_nil, fun a hp ha => ?_, fun a v hp ha => ?_, fun hp => ?_, fun a v ha hp => ?_⟩
  · rw [step_of_cons hp]
    exact State.hostEvent_read { s with port := rest } ha
  · rw [step_of_cons hp]
    exact State.hostEvent_write { s with port := rest } ha v
  · rw [step_of_cons hp]
    exact State.hostEvent_reset _
  · obtain hp | hp := hp <;> rw [step_of_cons hp]
    · exact State.hostEvent_wide { s with port := rest } ha (v := v) (.inl rfl)
    · exact State.hostEvent_wide { s with port := rest } ha (.inr rfl)

/-- Every port has the address of `CMD` (30_encoding.md R74). -/
theorem zero_lt_two_pow_addressBits (c : Config) : 0 < 2 ^ addressBits c := Nat.two_pow_pos _

/-- Settles O6: address 0 is `CMD` in every build. -/
theorem stepRunsTheCommandWritten : Obligations.StepRunsTheCommandWritten := by
  intro s v rest hp
  rw [step_of_cons hp]
  exact State.hostEvent_write { s with port := rest } (zero_lt_two_pow_addressBits s.cfg) v

/-- Settles O14: the reset state has an empty record of `IBUF` and `OLEN` 0, which hides the stored bytes of `OBUF`. -/
theorem resetEventClearsTheInputRecord : Obligations.ResetEventClearsTheInputRecord := by
  intro s rest hp
  exact ⟨State.applyReset { s with port := rest }, step_of_cons hp, fun _ => rfl, rfl, State.applyReset_obufRead _⟩

/-! ### Writes -/

/-- `CMD` is at address 0 alone, and an index of `IBUF` is below `NMAX` (20_memory.md R42). -/
theorem locate_cases (c : Config) (a : Nat) :
    (a = 0 ∧ locate c a = .cmd) ∨ (∃ i, i < c.nmax ∧ locate c a = .ibuf i)
      ∨ (locate c a ≠ .cmd ∧ ∀ i, locate c a ≠ .ibuf i) := by
  rcases Nat.lt_or_ge a 8 with h8 | h8
  · interval_cases a
    · exact .inl ⟨rfl, rfl⟩
    all_goals exact .inr (.inr ⟨by simp [locate], by simp [locate]⟩)
  · rw [locate_of_eight_le h8]
    split_ifs
    · exact .inr (.inr ⟨by simp, by simp⟩)
    · exact .inr (.inl ⟨_, by omega, rfl⟩)
    all_goals exact .inr (.inr ⟨by simp, by simp⟩)

/-- What a host write can do: run a command, store to `KIN`, `ILEN` or `IBUF`, or nothing (20_memory.md R42 to R44). -/
theorem State.hostWrite_cases (a : Nat) (v : PortWord) (s : State) :
    (a = 0 ∧ State.hostWrite a v s = exec (decodeCmd v) s)
      ∨ State.hostWrite a v s = .next (s.setKin v) ∨ State.hostWrite a v s = .next (s.setIlen v)
      ∨ (∃ i, i < s.cfg.nmax ∧ State.hostWrite a v s = .next (s.setIbuf i v)) ∨ State.hostWrite a v s = .next s := by
  unfold State.hostWrite
  obtain ⟨ha, hl⟩ | ⟨i, hi, hl⟩ | ⟨hc, hi⟩ := locate_cases s.cfg a
  · exact .inl ⟨ha, by rw [hl]⟩
  · exact .inr (.inr (.inr (.inl ⟨i, hi, by rw [hl]⟩)))
  · cases hl : locate s.cfg a
    case cmd => exact absurd hl hc
    case ibuf i => exact absurd hl (hi i)
    case kin => exact .inr (.inl rfl)
    case ilen => exact .inr (.inr (.inl rfl))
    all_goals exact .inr (.inr (.inr (.inr rfl)))

/-- Every code is a command (30_encoding.md R71). -/
theorem decodeCmd_format (v : PortWord) : (decodeCmd v).format = .cmd := by
  unfold decodeCmd
  split <;> rfl

theorem decodeCmd_wellFormed (v : PortWord) (c : Config) : (decodeCmd v).wellFormed c = true := by
  unfold decodeCmd
  split <;> rfl

/-- Settles O11: an access either stores or answers at once, or it runs a command, which answers a written input. -/
theorem onlyUnwrittenInputStopsAnAccess : Obligations.OnlyUnwrittenInputStopsAnAccess := by
  intro s e rest hp hon
  rw [step_of_cons hp]
  cases e with
  | read a => exact .inl ⟨_, State.hostEvent_read _ hon⟩
  | reset => exact .inl ⟨_, State.hostEvent_reset _⟩
  | write a v =>
    rw [State.hostEvent_write { s with port := rest } hon]
    obtain ⟨rfl, h⟩ | h | h | ⟨i, -, h⟩ | h := State.hostWrite_cases a v { s with port := rest } <;> rw [h]
    · by_cases hn : decodeCmd v = .nop
      · rw [hn]
        exact .inl ⟨_, rfl⟩
      · have hv : v.toNat % 8 ≠ 0 := fun h0 => hn (nopChangesNothing.1 v h0)
        cases hb : s.input with
        | none =>
          have hnot := s.input_eq_none.1 hb
          exact .inr ⟨exec_command_of_not_written (decodeCmd_format v) hn hnot, v, rfl, hv, hnot⟩
        | some bytes =>
          exact .inl ⟨_, exec_command_eq (decodeCmd_format v) hn (s := { s with port := rest })
            ((s.input_eq_some bytes).1 hb)⟩
    all_goals exact .inl ⟨_, rfl⟩

/-! ### The invariant -/

/-- The host's side of the port is no part of the invariant. -/
theorem State.Inv.setHost {s : State} (h : s.Inv) (port : List HostEvent) (replies : List PortWord) :
    State.Inv { s with port := port, replies := replies } :=
  ⟨{ h.sized with }, { h.settled with }⟩

theorem State.Inv.setKin {s : State} (h : s.Inv) (v : PortWord) : (s.setKin v).Inv :=
  ⟨{ h.sized with }, { h.settled with }⟩

theorem State.Inv.setIlen {s : State} (h : s.Inv) (v : PortWord) : (s.setIlen v).Inv := by
  have hlt : v.toNat % 2 ^ s.cfg.lw < 2 ^ s.cfg.lw := Nat.mod_lt _ (Nat.two_pow_pos _)
  have hilen : (s.setIlen v).ilen.toNat ≤ s.cfg.nmax := by
    rw [State.toNat_setIlen_ilen h.sized.cfg, Config.nmax]
    omega
  exact ⟨{ h.sized with ilen := hilen }, { h.settled with }⟩

theorem State.Inv.setIbuf {s : State} (h : s.Inv) {i : Nat} (hi : i < s.cfg.nmax) (v : PortWord) : (s.setIbuf i v).Inv :=
  ⟨{ h.sized with
      ibuf := Memory.write_wf s.ibuf i _ h.sized.ibuf
      ibufBelow := Memory.write_below s.ibuf i _ _ h.sized.ibufBelow hi }, { h.settled with }⟩

/-- The outputs of a reset state describe nothing yet (10_state.md R24, R25). -/
theorem State.settled_applyReset (s : State) : s.applyReset.Settled where
  status := .inl rfl
  reset _ := ⟨rfl, rfl, rfl⟩
  error _ := ⟨rfl, rfl⟩
  kout := .inl rfl
  ph := rfl

theorem State.Inv.applyReset {s : State} (h : s.Inv) : s.applyReset.Inv :=
  ⟨{ cfg := h.sized.cfg
     ilen := Nat.zero_le _
     olen := Nat.zero_le _
     idx := Nat.zero_le _
     ibuf := rfl
     obuf := h.sized.obuf
     ibufBelow := rfl
     obufBelow := h.sized.obufBelow
     stored := fun j hj => absurd hj (Nat.not_lt_zero j) }, s.settled_applyReset⟩

/-- Settles O16: nothing is stored and every register is 0 but `KOUT`, which is no kind. -/
theorem resetMeetsTheInvariant : Obligations.ResetMeetsTheInvariant := by
  intro c hc
  exact
    ⟨{ cfg := hc
       ilen := Nat.zero_le _
       olen := Nat.zero_le _
       idx := Nat.zero_le _
       ibuf := rfl
       obuf := rfl
       ibufBelow := rfl
       obufBelow := rfl
       stored := fun j hj => absurd hj (Nat.not_lt_zero j) }, (State.resetWith c).settled_applyReset⟩

/-- Every event keeps the invariant. -/
theorem State.Inv.hostEvent {s t : State} (hinv : s.Inv) {e : HostEvent} (h : State.hostEvent e s = .next t) : t.Inv := by
  cases e with
  | read a =>
    by_cases ha : a < 2 ^ addressBits s.cfg
    · cases (State.hostEvent_read s ha).symm.trans h
      exact hinv.setHost _ _
    · cases (State.hostEvent_wide s (v := 0) (Nat.le_of_not_lt ha) (.inl rfl)).symm.trans h
  | write a v =>
    by_cases ha : a < 2 ^ addressBits s.cfg
    · rw [State.hostEvent_write s ha] at h
      obtain ⟨-, hw⟩ | hw | hw | ⟨i, hi, hw⟩ | hw := State.hostWrite_cases a v s <;> rw [hw] at h
      · exact hinv.exec_next (decodeCmd_wellFormed v s.cfg) h
      · cases h
        exact hinv.setKin v
      · cases h
        exact hinv.setIlen v
      · cases h
        exact hinv.setIbuf hi v
      · cases h
        exact hinv
    · cases (State.hostEvent_wide s (Nat.le_of_not_lt ha) (.inr rfl)).symm.trans h
  | reset =>
    cases h
    exact hinv.applyReset

/-- Settles O17: with no event the state stays, and every event keeps the invariant. -/
theorem stepKeepsTheInvariant : Obligations.StepKeepsTheInvariant := by
  intro s t hinv h
  cases hp : s.port with
  | nil =>
    cases (step_of_nil hp).symm.trans h
    exact hinv
  | cons e rest =>
    rw [step_of_cons hp] at h
    exact (hinv.setHost rest s.replies).hostEvent h

end Sys2Proof.Machine

/-! SUPPORT. What a damaged frame decodes to, and the policy not taken for trailing bytes (40_checksum.md, 42_decode.md,
43_frame_model.md). -/

namespace Sys2Proof.Machine

/-! ### Damaged frames -/

/-- A frame is accepted exactly when it folds to zero (40_checksum.md R95). -/
theorem wireDecode_eq_ok_iff_residue {w : List Byte} (hl : 2 ≤ w.length) (hd : w.head? = some delimiter) :
    (∃ q, wireDecode w = .ok q) ↔ xorfold w = 0x00 := by
  constructor
  · rintro ⟨q, hq⟩
    rw [eq_wireEncode_of_wireDecode hq, xorfold_wireEncode]
  · intro h0
    obtain ⟨p, c, rfl⟩ := frame_of_delimiter hl hd
    have hc : c = checksum p := xorfold_concat_eq_zero.1 h0
    exact ⟨p, by rw [hc, ← wireEncode_eq, wireDecode_wireEncode]⟩

/-- Errors on every byte of a sequence add their fold to its fold. -/
theorem xorfold_zipWith_xor {s e : List Byte} (h : e.length = s.length) :
    xorfold (List.zipWith (· ^^^ ·) s e) = xorfold s ^^^ xorfold e := by
  induction s generalizing e with
  | nil =>
    cases List.length_eq_zero_iff.1 h
    rfl
  | cons b s ih =>
    obtain _ | ⟨x, e⟩ := e
    · cases h
    · rw [List.zipWith_cons_cons, xorfold_cons, xorfold_cons, xorfold_cons, ih (Nat.succ.inj h)]
      ac_rfl

/-- Settles O41: the error bytes are the residue of the damaged frame, and a checksum does not depend on the order of the
payload. -/
theorem errorPassesExactlyWhenItFoldsToZero : Obligations.ErrorPassesExactlyWhenItFoldsToZero := by
  refine ⟨fun p e he => ?_, fun p i x hi hx => ?_, fun p q hpq => ?_⟩
  · have hlen : e.length = (p ++ [checksum p]).length := by rw [List.length_append]; exact he
    have hl : 2 ≤ (delimiter :: List.zipWith (· ^^^ ·) (p ++ [checksum p]) e).length := by
      rw [List.length_cons, List.length_zipWith, ← hlen, Nat.min_self]
      omega
    have hfold : xorfold (delimiter :: List.zipWith (· ^^^ ·) (p ++ [checksum p]) e) = xorfold e := by
      calc xorfold (delimiter :: List.zipWith (· ^^^ ·) (p ++ [checksum p]) e)
          = xorfold (wireEncode p) ^^^ xorfold e := by
            rw [xorfold_cons, xorfold_zipWith_xor hlen, ← BitVec.xor_assoc, wireEncode_eq, xorfold_cons]
        _ = xorfold e := by rw [xorfold_wireEncode]; exact BitVec.zero_xor
    refine ⟨?_, fun hne => wireDecode_of_residue_ne hl rfl (hfold ▸ hne)⟩
    rw [wireDecode_eq_ok_iff_residue hl rfl, hfold]
  · exact wireDecode_modify_succ (by rw [wireEncode_length]; omega) hx
  · have hc : checksum p = checksum q := by rw [checksum_eq_xor, checksum_eq_xor, xorfold_perm hpq]
    rw [hc, ← wireEncode_eq, wireDecode_wireEncode]

/-- Settles O45: behind a frame the last byte is compared with the residue of the frame, which is zero; before a frame the
new byte is the delimiter or the residue. -/
theorem extraByteAroundAFrame : Obligations.ExtraByteAroundAFrame := by
  intro p x
  constructor
  · have hc : checksum (p ++ [checksum p]) = 0x00 := xorfold_wireEncode p
    rw [wireEncode_eq, List.cons_append, wireDecode_frame, hc]
    by_cases hx : x = 0x00
    · rw [if_neg (not_not_intro hx.symm), if_pos hx]
    · rw [if_pos (Ne.symm hx), if_neg hx]
  · have hl : 2 ≤ (x :: wireEncode p).length := by rw [List.length_cons, wireEncode_length]; omega
    by_cases hx : x = 0xB3
    · rw [if_pos hx]
      refine wireDecode_of_residue_ne hl (congrArg some hx) ?_
      rw [xorfold_cons, xorfold_wireEncode, hx]
      decide
    · rw [if_neg hx]
      exact wireDecode_of_head_ne hl (mt Option.some.inj hx)

/-! ### Trailing bytes -/

/-- Where a kind has more than its number of argument bytes, REJECT reports it and IGNORE takes the first of them
(43_frame_model.md R142). -/
theorem deserialize_of_gt {c : Config} {k : Kind} {args : List Byte} (h : c.arglenOf k < args.length) :
    deserialize c (k.fid :: args) = .error .trailingBytes
      ∧ deserializeUnder .ignore c (k.fid :: args) = .ok ⟨k, args.take (c.arglenOf k)⟩ := by
  constructor
  · rw [deserialize_cons, disc_of_gt h]
    rfl
  · simp only [deserializeUnder, Kind.ofFid_fid, if_neg h.not_gt, if_pos h]

/-- Everywhere else the policies agree, and neither reports trailing bytes. -/
theorem deserializeUnder_ignore_cases (c : Config) (p : List Byte) :
    (∃ (k : Kind) (args : List Byte), p = k.fid :: args ∧ c.arglenOf k < args.length)
      ∨ deserializeUnder .ignore c p = deserialize c p ∧ deserialize c p ≠ .error .trailingBytes := by
  cases p with
  | nil => exact .inr ⟨rfl, nofun⟩
  | cons fid args =>
    by_cases hk : ∃ k : Kind, k.fid = fid
    · obtain ⟨k, rfl⟩ := hk
      by_cases hgt : c.arglenOf k < args.length
      · exact .inl ⟨k, args, rfl, hgt⟩
      · refine .inr ⟨by simp only [deserialize, deserializeUnder, Kind.ofFid_fid, if_neg hgt], ?_⟩
        rw [deserialize_cons, disc_fid, if_neg hgt]
        split_ifs <;> nofun
    · have hnone : ∀ k : Kind, k.fid ≠ fid := not_exists.1 hk
      refine .inr ⟨by simp only [deserialize, deserializeUnder, Kind.ofFid_of_no_kind hnone], ?_⟩
      rw [deserialize_of_no_kind c args hnone]
      nofun

/-- Settles O49: the policies differ exactly where a kind has too many argument bytes. -/
theorem trailingBytesAreRejected : Obligations.TrailingBytesAreRejected := by
  intro c p
  refine ⟨rfl, ?_, fun hne => ?_, ?_⟩
  · obtain ⟨k, args, rfl, hgt⟩ | ⟨heq, hne⟩ := deserializeUnder_ignore_cases c p
    · rw [(deserialize_of_gt hgt).2]
      nofun
    · exact heq ▸ hne
  · obtain ⟨k, args, rfl, hgt⟩ | ⟨heq, -⟩ := deserializeUnder_ignore_cases c p
    · exact absurd (deserialize_of_gt hgt).1 hne
    · exact heq
  · rintro k x rfl hgt
    exact deserialize_of_gt hgt

end Sys2Proof.Machine

/-! SUPPORT. The fields of the argument bytes: where each stands and the number it is (30_encoding.md R69). -/

namespace Sys2Proof.Machine

/-! ### Where a field stands -/

theorem splitFields_length (ws : List Nat) (args : List Byte) : (splitFields ws args).length = ws.length := by
  induction ws generalizing args with
  | nil => rfl
  | cons w ws ih => exact congrArg Nat.succ (ih _)

/-- A field stands after the widths before it. -/
theorem splitFields_getElem? {ws : List Nat} {f w : Nat} (h : ws[f]? = some w) (args : List Byte) :
    (splitFields ws args)[f]? = some ((args.drop (ws.take f).sum).take w) := by
  induction ws generalizing f args with
  | nil => cases h
  | cons v ws ih =>
    rw [splitFields]
    cases f with
    | zero =>
      cases h
      rfl
    | succ f =>
      rw [List.getElem?_cons_succ, ih h, List.drop_drop, List.take_succ_cons, List.sum_cons]

/-- The fields without gaps are the bytes that their widths cover. -/
theorem splitFields_flatten (ws : List Nat) (args : List Byte) : (splitFields ws args).flatten = args.take ws.sum := by
  induction ws generalizing args with
  | nil => rfl
  | cons w ws ih => rw [splitFields, List.flatten_cons, ih, List.sum_cons, List.take_add]

/-- A field ends within the sum of the widths. -/
theorem sum_take_add_le {ws : List Nat} {f w : Nat} (h : ws[f]? = some w) : (ws.take f).sum + w ≤ ws.sum := by
  have hsum : (ws.take (f + 1)).sum = (ws.take f).sum + w := by
    rw [List.take_add_one, h, List.sum_append, Option.toList_some, List.sum_singleton]
  have hsplit := List.sum_take_add_sum_drop ws (f + 1)
  omega

/-- The widths of a kind's fields sum to its number of argument bytes (00_scope.md R6). -/
theorem Config.sum_fields {c : Config} (h : c.wf) (k : Kind) : (c.fields.get k).sum = c.arglenOf k := by
  have hok : c.fieldsOk k = true := by
    obtain ⟨-, -, -, -, -, -, -, -, -, -, -, -, -, -, -, h1, h2, h3, h4, h5, h6, h7⟩ := h
    cases k <;> assumption
  exact beq_iff_eq.1 (Bool.and_eq_true_iff.1 hok).2

/-! ### Unsigned values -/

theorem littleValue_eq_sum (bs : List Byte) :
    littleValue bs = ((List.range bs.length).map fun t => (bs.getD t 0).toNat * 256 ^ t).sum := by
  induction bs with
  | nil => rfl
  | cons b bs ih =>
    rw [littleValue, ih, List.length_cons, List.range_succ_eq_map, List.map_cons, List.sum_cons, List.map_map,
      ← List.sum_map_mul_left]
    refine congrArg₂ (· + ·) (by simp) (congrArg List.sum (List.map_congr_left fun t _ => ?_))
    simp only [Function.comp_apply, List.getD_cons_succ, Nat.succ_eq_add_one, Nat.pow_succ]
    ring

theorem bigValue_eq_sum (bs : List Byte) :
    bigValue bs = ((List.range bs.length).map fun t => (bs.getD t 0).toNat * 256 ^ (bs.length - 1 - t)).sum := by
  induction bs with
  | nil => rfl
  | cons b bs ih =>
    rw [bigValue, ih, List.length_cons, List.range_succ_eq_map, List.map_cons, List.sum_cons, List.map_map]
    refine congrArg₂ (· + ·) (by simp) (congrArg List.sum (List.map_congr_left fun t _ => ?_))
    simp only [Function.comp_apply, List.getD_cons_succ, Nat.succ_eq_add_one, Nat.add_sub_cancel]
    congr 2
    omega

/-! ### Signed values -/

theorem littleValue_concat (bs : List Byte) (b : Byte) :
    littleValue (bs ++ [b]) = b.toNat * 256 ^ bs.length + littleValue bs := by
  induction bs with
  | nil => simp [littleValue]
  | cons c bs ih =>
    rw [List.cons_append, littleValue, ih, littleValue, List.length_cons, Nat.pow_succ]
    ring

theorem littleValue_lt (bs : List Byte) : littleValue bs < 256 ^ bs.length := by
  induction bs with
  | nil => exact Nat.one_pos
  | cons b bs ih =>
    have hb := b.isLt
    rw [littleValue, List.length_cons, Nat.pow_succ]
    omega

theorem bigValue_lt (bs : List Byte) : bigValue bs < 256 ^ bs.length := by
  induction bs with
  | nil => exact Nat.one_pos
  | cons b bs ih =>
    have hb : b.toNat * 256 ^ bs.length ≤ 255 * 256 ^ bs.length := Nat.mul_le_mul_right _ (Nat.le_of_lt_succ b.isLt)
    rw [bigValue, List.length_cons, Nat.pow_succ]
    omega

/-- A number with its most significant byte split off is in the upper half exactly when that byte has its top bit set. -/
theorem two_mul_lt_iff_top_bit (b : Byte) {q r : Nat} (hr : r < q) :
    2 * (b.toNat * q + r) < q * 256 ↔ ¬ b.getLsbD 7 = true := by
  have htop : b.getLsbD 7 = decide (2 ^ 7 ≤ b.toNat) := BitVec.msb_eq_decide b
  rw [htop, decide_eq_true_iff, Nat.not_le]
  constructor
  · intro hlt
    by_contra hge
    have hmul : 128 * q ≤ b.toNat * q := Nat.mul_le_mul_right q (Nat.le_of_not_lt hge)
    omega
  · intro hlt
    have hmul : b.toNat * q ≤ 127 * q := Nat.mul_le_mul_right q (Nat.le_of_lt_succ hlt)
    omega

/-- The most significant byte of a field (30_encoding.md R69). -/
def topByte : FieldEndian → List Byte → Byte
  | .big, bs => bs.headD 0
  | .little, bs => bs.getLastD 0

/-- An unsigned value is in the upper half of its range exactly when the top bit of its most significant byte is set. -/
theorem unsignedValue_lt_half_iff (e : FieldEndian) (bs : List Byte) :
    2 * unsignedValue e bs < 256 ^ bs.length ↔ ¬ (topByte e bs).getLsbD 7 = true := by
  cases e with
  | big =>
    cases bs with
    | nil => decide
    | cons b bs =>
      rw [List.length_cons, Nat.pow_succ]
      exact two_mul_lt_iff_top_bit b (bigValue_lt bs)
  | little =>
    obtain rfl | ⟨bs, b, rfl⟩ := List.eq_nil_or_concat' bs
    · decide
    · rw [unsignedValue, littleValue_concat, topByte, List.getLastD_concat, List.length_append, List.length_singleton,
        Nat.pow_succ]
      exact two_mul_lt_iff_top_bit b (littleValue_lt bs)

theorem signedValue_eq (e : FieldEndian) (bs : List Byte) :
    signedValue e bs =
      if (topByte e bs).getLsbD 7 then (unsignedValue e bs : Int) - 256 ^ bs.length else unsignedValue e bs := by
  rw [signedValue]
  by_cases h : (topByte e bs).getLsbD 7 = true
  · rw [if_pos h, if_neg (mt (unsignedValue_lt_half_iff e bs).1 (not_not_intro h))]
  · rw [if_neg h, if_pos ((unsignedValue_lt_half_iff e bs).2 h)]

/-! ### The statement about the fields (30_encoding.md) -/

/-- Settles O52: positions by induction on the widths, values by induction on the bytes, and the widths of a build's fields
cover its argument bytes. -/
theorem fieldsReadAsTheSpecSays : Obligations.FieldsReadAsTheSpecSays := by
  refine ⟨fun ws args f w h => splitFields_getElem? h args, littleValue_eq_sum, bigValue_eq_sum, ?_, fun c fr hc hfr => ?_⟩
  · rintro e bs top rfl
    cases e with
    | big => exact signedValue_eq .big bs
    | little => exact signedValue_eq .little bs
  · have hlen : fr.args.length = (c.fields.get fr.kind).sum := (Frame.wf_iff.1 hfr).trans (Config.sum_fields hc _).symm
    refine ⟨?_, ?_, fun f w hf => ⟨?_, ?_⟩⟩
    · rw [splitFields_flatten, ← hlen, List.take_length]
    · rw [fieldValues, List.length_map, splitFields_length]
    · have hend := sum_take_add_le hf
      rw [List.length_take, List.length_drop]
      omega
    · rw [fieldValues, List.getElem?_map, splitFields_getElem? hf, Option.map_some]

end Sys2Proof.Machine

/-! SUPPORT. The composed commands and the two-step ways (44_pipeline.md R160). -/

namespace Sys2Proof.Machine

/-! ### Results that differ in the checksum alone -/

theorem State.shows.status {t : State} {st k c : Byte} {out : List Byte} (h : t.shows st k c out) : t.status = st := by
  obtain ⟨hst, -⟩ := h
  exact hst

/-- What the host finds fixes every output it can read but `CHK`, when only `CHK` differs (10_state.md R11). -/
theorem State.shows.sameButChk {t u : State} {st k c c' : Byte} {out : List Byte} (ht : t.shows st k c out)
    (hu : u.shows st k c' out) :
    t.status = u.status ∧ t.kout = u.kout ∧ t.olen = u.olen ∧ ∀ j, t.obufRead j = u.obufRead j := by
  obtain ⟨hst, hk, -, hrest⟩ := hu
  have hu' : State.shows { u with chk := c } st k c out := ⟨hst, hk, rfl, hrest⟩
  obtain ⟨hst', hk', hl', -, ho'⟩ := ht.sameOutputs hu'
  exact ⟨hst', hk', hl', ho'⟩

/-- What the discriminator recognises does not depend on the checksum that it reports (43_frame_model.md R128). -/
theorem recognised_congr (c : Config) (chk chk' : Byte) (p : List Byte) :
    (recognised c chk p).code = (recognised c chk' p).code ∧ (recognised c chk p).kout = (recognised c chk' p).kout
      ∧ (recognised c chk p).out = (recognised c chk' p).out := by
  cases p with
  | nil => exact ⟨rfl, rfl, rfl⟩
  | cons fid args =>
    cases hd : disc c fid args.length with
    | error e =>
      simp only [recognised, discriminated_of_error _ _ hd]
      exact ⟨rfl, rfl, rfl⟩
    | ok k =>
      simp only [recognised, discriminated_of_ok _ _ hd]
      exact ⟨rfl, rfl, rfl⟩

/-! ### The second stage -/

/-- An output that fits the input buffer is the input of the next command once it is copied there, in the same build. -/
theorem State.completesTo.load_output {s t : State} {st k c : Byte} {out : List Byte} (h : s.completesTo t st k c out)
    (hc : s.cfg.wf) (hl : out.length ≤ s.cfg.nmax) :
    (t.load t.output).cfg = s.cfg ∧ (t.load t.output).inputIs out := by
  obtain ⟨⟨-, -, -, -, hout, -⟩, ⟨hcfg, -⟩, -⟩ := h
  rw [hout]
  exact ⟨hcfg.symm, State.load_inputIs (hcfg ▸ hc) (hcfg ▸ hl)⟩

/-- On an input that fits the buffer a command completes with its result. -/
theorem State.Sized.exec_command_completesTo {s : State} (hs : s.Sized) {i : Instr} (hf : i.format = .cmd) (hn : i ≠ .nop)
    {bytes : List Byte} (hin : s.inputIs bytes) {r : CommandResult} (hr : commandResult s.cfg s.kin i bytes = r) :
    ∃ t, exec i s = .next t ∧ s.completesTo t (statusWord r.code) r.kout r.chk r.out :=
  Machine.exec_command_completesTo hf hn hin hr (hr ▸ commandResult_out_length_lt_port hf hn hs hin)

section
variable {w : List Byte} (next : List Byte → Byte → CommandResult)

theorem validated_of_error {e : FrameError} {c : Byte} (h : validate w = .error (e, c)) :
    validated w next = .error e c := by
  rw [validated, h]

theorem validated_of_ok {p : List Byte} {c : Byte} (h : validate w = .ok (p, c)) : validated w next = next p c := by
  rw [validated, h]

end

/-- RX is DEC and then DES (44_pipeline.md R160). -/
theorem exec_rx_two_steps {s : State} (hs : s.Sized) {bytes : List Byte} (hin : s.inputIs bytes) :
    ∃ t u, exec .dec s = .next t ∧ exec .rx s = .next u ∧ u.chk = t.chk
      ∧ (t.status ≠ 0x80 → u.sameOutputs t)
      ∧ (t.status = 0x80 → ∃ v, exec .des (t.load t.output) = .next v
          ∧ u.status = v.status ∧ u.kout = v.kout ∧ u.olen = v.olen ∧ ∀ j, u.obufRead j = v.obufRead j) := by
  rcases hv : validate bytes with ⟨e, c⟩ | ⟨p, c⟩
  · obtain ⟨t, ht, htsh, -⟩ := hs.exec_command_completesTo (i := .dec) rfl (by decide) hin (validated_of_error _ hv)
    obtain ⟨u, hu, hush, -⟩ := hs.exec_command_completesTo (i := .rx) rfl (by decide) hin (validated_of_error _ hv)
    have hst : t.status = statusWord e.code := htsh.status
    have hchk : u.chk = t.chk := (State.showsResult.chk hush).trans (State.showsResult.chk htsh).symm
    exact ⟨t, u, ht, hu, hchk, fun _ => State.shows.sameOutputs hush htsh,
      fun h => absurd (hst.symm.trans h) (statusWord_error_ne e)⟩
  · obtain ⟨t, ht, htc⟩ := hs.exec_command_completesTo (i := .dec) rfl (by decide) hin (validated_of_ok _ hv)
    obtain ⟨u, hu, hush, -⟩ := hs.exec_command_completesTo (i := .rx) rfl (by decide) hin (validated_of_ok _ hv)
    have hp : p.length ≤ s.cfg.nmax := by
      have hlen := hs.input_length_le hin
      rw [(validate_eq_ok hv).1, List.length_cons, List.length_append] at hlen
      omega
    obtain ⟨hcfg, hin'⟩ := htc.load_output hs.cfg hp
    have hout : (recognised s.cfg 0x00 p).out.length < 2 ^ 16 :=
      (recognised_fits s.cfg 0x00 hp).out.trans_lt (Config.nmax_add_three_lt_port hs.cfg)
    obtain ⟨v, hv, hvsh, -⟩ := exec_command_completesTo (i := .des) rfl (by decide) hin' (hcfg ▸ rfl) hout
    obtain ⟨⟨hst, -, htchk, -⟩, -⟩ := htc
    obtain ⟨hcode, hkout, hout'⟩ := recognised_congr s.cfg c 0x00 p
    have huchk : u.chk = c := (State.showsResult.chk hush).trans (recognised_chk s.cfg c p)
    rw [hcode, hkout, hout'] at hush
    exact ⟨t, u, ht, hu, huchk.trans htchk.symm, fun h => absurd (hst.trans statusWord_codeOK) h,
      fun _ => ⟨v, hv, hush.sameButChk hvsh⟩⟩

/-- TX is SER and then ENC (44_pipeline.md R160). -/
theorem exec_tx_two_steps {s : State} (hs : s.Sized) {bytes : List Byte} (hin : s.inputIs bytes) :
    ∃ t u, exec .ser s = .next t ∧ exec .tx s = .next u
      ∧ (t.status ≠ 0x80 → u.sameOutputs t)
      ∧ (t.status = 0x80 → ∃ v, exec .enc (t.load t.output) = .next v ∧ u.sameOutputs v) := by
  cases hd : disc s.cfg s.kin bytes.length with
  | error e =>
    obtain ⟨t, ht, htsh, -⟩ :=
      hs.exec_command_completesTo (i := .ser) rfl (by decide) hin (discriminated_of_error _ _ hd)
    obtain ⟨u, hu, hush, -⟩ := hs.exec_command_completesTo (i := .tx) rfl (by decide) hin (discriminated_of_error _ _ hd)
    have hst : t.status = statusWord e.code := htsh.status
    exact ⟨t, u, ht, hu, fun _ => hush.sameOutputs htsh, fun h => absurd (hst.symm.trans h) (statusWord_error_ne e)⟩
  | ok k =>
    obtain ⟨t, ht, htc⟩ := hs.exec_command_completesTo (i := .ser) rfl (by decide) hin (discriminated_of_ok _ _ hd)
    obtain ⟨u, hu, hush, -⟩ := hs.exec_command_completesTo (i := .tx) rfl (by decide) hin (discriminated_of_ok _ _ hd)
    obtain ⟨hk, hargs⟩ := disc_eq_ok hd
    have hfit : (wireEncode (s.kin :: bytes)).length ≤ s.cfg.nmax := hk ▸ wireEncode_frame_length_le hs.cfg hargs
    have hport := Config.nmax_add_three_lt_port hs.cfg
    have hlen : (s.kin :: bytes).length ≤ s.cfg.nmax := by
      rw [wireEncode_length] at hfit
      omega
    have hin' : (t.load t.output).inputIs (s.kin :: bytes) := (htc.load_output hs.cfg hlen).2
    obtain ⟨v, hv, hvsh, -⟩ := exec_command_completesTo_ok (i := .enc) rfl (by decide) hin' rfl (by omega)
    obtain ⟨⟨hst, -⟩, -⟩ := htc
    exact ⟨t, u, ht, hu, fun h => absurd (hst.trans statusWord_codeOK) h,
      fun _ => ⟨v, hv, State.shows.sameOutputs (statusWord_codeOK ▸ hush) hvsh⟩⟩

/-- Settles O51: each composed command's result is that of its first stage, or that of its second stage on the first one's
output. -/
theorem composedCommandsAreTheTwoStepWays : Obligations.ComposedCommandsAreTheTwoStepWays :=
  fun _ _ hinv hin => ⟨exec_rx_two_steps hinv.sized hin, exec_tx_two_steps hinv.sized hin⟩

end Sys2Proof.Machine

/-! SUPPORT. The scripts: loading the input, reading the outputs, and the calls made of both (30_encoding.md R75, R76). -/

namespace Sys2Proof.Machine

/-! ### Addresses -/

/-- Both buffers stand within the port's addresses (20_memory.md R42). -/
theorem obufBase_add_lt {c : Config} (hc : c.wf) : obufBase c + c.nmax + 3 < 2 ^ addressBits c := by
  have hlt : c.nmax + 3 < ibufBase c := Config.nmax_add_three_lt hc
  have hobuf := obufBase_eq_two_mul_ibufBase c
  have htop : 2 ^ addressBits c = 2 * obufBase c := Nat.pow_succ'
  omega

/-- The eight registers too. -/
theorem register_lt {c : Config} (hc : c.wf) {a : Nat} (ha : a < 8) : a < 2 ^ addressBits c := by
  have hi := Config.eight_le_ibufBase hc
  have hobuf := obufBase_eq_two_mul_ibufBase c
  have htop := obufBase_add_lt hc
  omega

/-! ### Loading -/

/-- The `WB` lines store their bytes and do nothing else. -/
theorem State.script_wbLines {s : State} (hc : s.cfg.wf) {i : Nat} {bytes : List Byte} (h : i + bytes.length ≤ s.cfg.nmax) :
    s.script (wbLines i bytes) = .next { s with ibuf := Memory.writeList s.ibuf i bytes } := by
  induction bytes generalizing s i with
  | nil => rfl
  | cons b bytes ih =>
    rw [List.length_cons] at h
    have hi : i < s.cfg.nmax := by omega
    have haddr : ibufBase s.cfg + i < 2 ^ addressBits s.cfg := by
      have htop := obufBase_add_lt hc
      have hobuf := obufBase_eq_two_mul_ibufBase s.cfg
      omega
    have hline : State.hostEvent ((Line.wb i b).event s.cfg) s = .next (s.setIbuf i (b.setWidth 16)) :=
      (State.hostEvent_write s haddr _).trans (State.hostWrite_ibuf (locate_ibuf hc hi) _)
    have hb : (b.setWidth 16 : PortWord).setWidth 8 = b := by
      rw [BitVec.setWidth_setWidth_of_le _ (by decide), BitVec.setWidth_eq]
    have hrest : i + 1 + bytes.length ≤ s.cfg.nmax := by omega
    rw [wbLines, State.script_cons _ _ s _ hline rfl, ih (s := s.setIbuf i (b.setWidth 16)) hc hrest, State.setIbuf_ibuf,
      hb]
    rfl

/-- `LOAD` line by line is the load of the whole input. -/
theorem State.script_loadLines {s : State} (hc : s.cfg.wf) {bytes : List Byte} (h : bytes.length ≤ s.cfg.nmax) :
    s.script (loadLines bytes) = .next (s.load bytes) := by
  rw [loadLines, State.script_append _ _ s _ (State.script_wbLines hc (by omega)) rfl]
  exact State.script_cons (.wl bytes.length) [] { s with ibuf := Memory.writeList s.ibuf 0 bytes } (s.load bytes)
    (State.hostEvent_write { s with ibuf := Memory.writeList s.ibuf 0 bytes } (register_lt hc (by decide)) _) rfl

/-- `FRAME` stores the kind and loads the argument bytes. -/
theorem State.script_frameLines {s : State} (hc : s.cfg.wf) (k : Byte) {bytes : List Byte} (h : bytes.length ≤ s.cfg.nmax) :
    s.script (frameLines k bytes) = .next ((s.setKin (k.setWidth 16)).load bytes) := by
  rw [frameLines, State.script_cons (.wk k) _ s (s.setKin (k.setWidth 16))
    (State.hostEvent_write s (register_lt hc (by decide)) _) rfl]
  exact State.script_loadLines (s := s.setKin (k.setWidth 16)) hc h

/-- A kind written to `KIN` stands there (20_memory.md R44). -/
theorem State.setKin_widened_kin (k : Byte) (s : State) : (s.setKin (k.setWidth 16)).kin = k := by
  rw [State.setKin_kin, BitVec.setWidth_setWidth_of_le _ (by decide), BitVec.setWidth_eq]

/-- The bytes of `IBUF` above a loaded input are as before. -/
theorem State.load_ibuf_above (s : State) {bytes : List Byte} {j : Nat} (h : bytes.length ≤ j) :
    Memory.read (s.load bytes).ibuf j = Memory.read s.ibuf j := by
  rw [State.load_ibuf, Memory.read_writeList, if_neg (by omega)]

/-- Settles O53: `LOAD` is the load of its bytes, and `FRAME` is that after a write of `KIN`. -/
theorem loadScriptPutsTheInput : Obligations.LoadScriptPutsTheInput := by
  intro s k bytes hc h
  exact ⟨⟨s.load bytes, State.script_loadLines hc h, State.load_inputIs hc h, rfl, fun j hj => s.load_ibuf_above hj⟩,
    (s.setKin (k.setWidth 16)).load bytes, State.script_frameLines hc k h,
    State.load_inputIs (s := s.setKin (k.setWidth 16)) hc h, s.setKin_widened_kin k, rfl,
    fun j hj => (s.setKin (k.setWidth 16)).load_ibuf_above hj⟩

/-! ### Reading -/

/-- Reads at addresses of the port return their values in order and change nothing of the block (20_memory.md R41). -/
theorem State.events_reads {s : State} {as : List Nat} (h : ∀ a ∈ as, a < 2 ^ addressBits s.cfg) :
    State.events (as.map HostEvent.read) s = .next { s with replies := s.replies ++ as.map s.hostRead } := by
  induction as generalizing s with
  | nil => rw [List.map_nil, List.map_nil, List.append_nil, State.events]
  | cons a as ih =>
    obtain ⟨ha, has⟩ := List.forall_mem_cons.1 h
    rw [List.map_cons, State.events, State.hostEvent_read s ha]
    refine (ih (s := { s with replies := s.replies ++ [s.hostRead a] }) has).trans ?_
    rw [List.map_cons, List.append_assoc]
    rfl

/-- The addresses that `DUMP` reads (30_encoding.md R75). -/
def dumpAddresses (c : Config) (n : Nat) : List Nat := 5 :: (List.range n).map (obufBase c + ·)

theorem dumpLines_events (c : Config) (n : Nat) :
    (dumpLines n).map (Line.event c) = (dumpAddresses c n).map HostEvent.read := by
  rw [dumpLines, dumpAddresses, List.map_cons, List.map_cons, List.map_map, List.map_map]
  rfl

theorem dumpAddresses_lt {c : Config} (hc : c.wf) {n : Nat} (hn : n ≤ c.nmax + 3) :
    ∀ a ∈ dumpAddresses c n, a < 2 ^ addressBits c := by
  refine List.forall_mem_cons.2 ⟨register_lt hc (by decide), List.forall_mem_map.2 fun j hj => ?_⟩
  have htop := obufBase_add_lt hc
  have hlt := List.mem_range.1 hj
  omega

/-- What `DUMP` reads is `OLEN` and the output sequence (30_encoding.md R75). -/
theorem State.Sized.hostRead_dumpAddresses {s : State} (hs : s.Sized) :
    (dumpAddresses s.cfg s.olen.toNat).map s.hostRead = s.olen :: s.output.map fun b => b.setWidth 16 := by
  rw [dumpAddresses, List.map_cons, List.map_map, State.output, List.map_map]
  refine congrArg₂ List.cons rfl (List.map_congr_left fun j hj => ?_)
  exact State.hostRead_obuf (locate_obuf hs.cfg ((List.mem_range.1 hj).trans_le hs.olen))

/-- Settles O54: `DUMP` is reads, at the addresses of `OLEN` and of the output sequence. -/
theorem dumpScriptYieldsTheOutput : Obligations.DumpScriptYieldsTheOutput := by
  intro s hs
  rw [State.script, dumpLines_events, State.events_reads (dumpAddresses_lt hs.cfg hs.olen), hs.hostRead_dumpAddresses]

/-! ### Calls -/

/-- A loaded input keeps the invariant. -/
theorem State.Inv.load {s : State} (h : s.Inv) {bytes : List Byte} (hl : bytes.length ≤ s.cfg.nmax) :
    (s.load bytes).Inv := by
  have hbytes : State.Inv { s with ibuf := Memory.writeList s.ibuf 0 bytes } :=
    ⟨{ h.sized with
        ibuf := Memory.writeList_wf s.ibuf 0 bytes h.sized.ibuf
        ibufBelow := Memory.writeList_below s.ibuf 0 _ bytes h.sized.ibufBelow ((Nat.zero_add _).trans_le hl) },
      { h.settled with }⟩
  exact hbytes.setIlen _

/-- The values that `RS; DUMP` return in a state (30_encoding.md R76). -/
def State.callReplies (t : State) : List PortWord :=
  t.status.setWidth 16 :: t.olen :: t.output.map fun b => b.setWidth 16

/-- The result of a call as the document gives it: the output sequence or the error (30_encoding.md R76). -/
def CommandResult.value : CommandResult → Except FrameError (List Byte)
  | .error e _ => .error e
  | .ok _ _ out => .ok out

/-- A host reads from the values of `RS; DUMP` the result that the state shows. -/
theorem State.showsResult.readCall {t : State} {r : CommandResult} (h : t.showsResult r) :
    readCall t.callReplies = some r.value := by
  have hdump := readDump_widened t.olen t.output t.output_length.symm
  obtain ⟨hst, -, -, -, hout, -⟩ := h
  rw [State.callReplies, hst]
  cases r with
  | error e chk => exact readCall_error e _ t.output hdump
  | ok kout chk out =>
    rw [CommandResult.code_ok, statusWord_codeOK, CommandResult.value, ← show t.output = out from hout]
    exact readCall_ok _ t.output hdump

/-- The values that `RS; RK; DUMP` return in a state (30_encoding.md R76). -/
def State.deserializeReplies (t : State) : List PortWord :=
  t.status.setWidth 16 :: t.kout.setWidth 16 :: t.olen :: t.output.map fun b => b.setWidth 16

/-- With `RK` a host reads the kind byte too. -/
theorem State.showsResult.readDeserialize {t : State} {r : CommandResult} (h : t.showsResult r) :
    readDeserialize t.deserializeReplies = some (r.value.map fun out => (r.kout, out)) := by
  have hkout : (t.kout.setWidth 16 : PortWord).setWidth 8 = r.kout := by
    rw [BitVec.setWidth_setWidth_of_le _ (by decide), BitVec.setWidth_eq, h.kout]
  rw [State.deserializeReplies, Machine.readDeserialize, ← State.callReplies, h.readCall, Option.map_some, hkout]

/-- A command and the reads after it, run from a state that its input lines have led to (30_encoding.md R76). -/
theorem State.script_command {s l t : State} {input reads : List Line} {code : BitVec 3} {as : List Nat}
    (hinput : s.script input = .next l) (hlcfg : l.cfg = s.cfg) (hl : l.Inv)
    (ht : exec (decodeCmd (code.setWidth 16)) l = .next t) (htcfg : t.cfg = s.cfg)
    (hreads : reads.map (Line.event s.cfg) = as.map HostEvent.read) (has : ∀ a ∈ as, a < 8) :
    s.script (input ++ .cmd code :: (reads ++ dumpLines t.olen.toNat)) =
      .next { t with replies := t.replies ++ (as.map t.hostRead ++ t.olen :: t.output.map fun b => b.setWidth 16) } := by
  have hinv : t.Inv := hl.exec_next (decodeCmd_wellFormed _ _) ht
  have hc := hinv.sized.cfg
  have hcmd : State.hostEvent ((Line.cmd code).event l.cfg) l = .next t :=
    (State.hostEvent_write l (zero_lt_two_pow_addressBits _) _).trans ht
  have hall : ∀ a ∈ as ++ dumpAddresses t.cfg t.olen.toNat, a < 2 ^ addressBits t.cfg :=
    List.forall_mem_append.2 ⟨fun a ha => register_lt hc (has a ha), dumpAddresses_lt hc hinv.sized.olen⟩
  rw [State.script_append _ _ s l hinput hlcfg, State.script_cons _ _ l t hcmd (htcfg.trans hlcfg.symm), State.script,
    List.map_append, dumpLines_events, htcfg, hreads, ← htcfg, ← List.map_append, State.events_reads hall, List.map_append,
    hinv.sized.hostRead_dumpAddresses]

/-- The whole script of a call returns the result of its command. -/
theorem State.script_call {s l : State} {input : List Line} {code : BitVec 3} {i : Instr} {bytes : List Byte}
    (hinput : s.script input = .next l) (hlcfg : l.cfg = s.cfg) (hreplies : l.replies = s.replies) (hl : l.Inv)
    (hcode : decodeCmd (code.setWidth 16) = i) (hn : i ≠ .nop) (hin : l.inputIs bytes) :
    ∃ n t r, s.script (callLines input code n) = .next t ∧ t.replies = s.replies ++ r
      ∧ Machine.readCall r = some (commandResult l.cfg l.kin i bytes).value := by
  subst hcode
  obtain ⟨t, ht, hsh, ⟨htcfg, -, -, -, -, htreplies⟩, -⟩ :=
    hl.sized.exec_command_completesTo (decodeCmd_format _) hn hin rfl
  have hscript := State.script_command (reads := [.rs]) (as := [1]) hinput hlcfg hl ht (htcfg.symm.trans hlcfg) rfl
    (by simp)
  refine ⟨t.olen.toNat, { t with replies := t.replies ++ t.callReplies }, t.callReplies, ?_, ?_,
    State.showsResult.readCall hsh⟩
  · rw [callLines, List.append_assoc]
    exact hscript
  · exact congrArg (· ++ _) (htreplies.symm.trans hreplies)

/-! ### The functions -/

theorem commandResult_dec_value (c : Config) (kin : Byte) (w : List Byte) :
    (commandResult c kin .dec w).value = wireDecode w := by
  rw [commandResult, validated, wireDecode]
  rcases validate w with ⟨e, v⟩ | ⟨p, v⟩ <;> rfl

/-- With the kind that stands in `KOUT`, DES's result is DESERIALIZE's (43_frame_model.md R128). -/
theorem recognised_value (c : Config) (chk : Byte) (p : List Byte) :
    (recognised c chk p).value.map (fun out => ((recognised c chk p).kout, out))
      = (deserialize c p).map fun f => (f.kind.fid, f.args) := by
  cases p with
  | nil => rfl
  | cons fid args =>
    rw [deserialize_cons, recognised]
    cases hd : disc c fid args.length with
    | error e =>
      rw [discriminated_of_error _ _ hd]
      rfl
    | ok k =>
      rw [discriminated_of_ok _ _ hd, (disc_eq_ok hd).1]
      rfl

/-- Settles O55: each script loads its input, runs its command and reads the result that the command leaves. -/
theorem callScriptsComputeTheFunctions : Obligations.CallScriptsComputeTheFunctions := by
  intro s bytes hinv hl
  have hc := hinv.sized.cfg
  have hload := State.script_loadLines hc hl
  have hin := State.load_inputIs hc hl
  refine ⟨State.script_call (l := s.load bytes) (i := .enc) hload rfl rfl (hinv.load hl) rfl (by decide) hin, ?_,
    fun k hk => ?_, ?_⟩
  · rw [← commandResult_dec_value s.cfg s.kin]
    exact State.script_call (l := s.load bytes) (i := .dec) hload rfl rfl (hinv.load hl) rfl (by decide) hin
  · have hcall := State.script_call (i := .ser) (code := 4) (State.script_frameLines hc k.fid hl) rfl rfl
      ((hinv.setKin (k.fid.setWidth 16)).load hl) rfl (by decide)
      (State.load_inputIs (s := s.setKin (k.fid.setWidth 16)) hc hl)
    have hkin : ((s.setKin (k.fid.setWidth 16)).load bytes).kin = k.fid := s.setKin_widened_kin k.fid
    have hser : commandResult s.cfg k.fid .ser bytes = .ok 0xFF 0x00 (k.fid :: bytes) :=
      discriminated_of_ok _ _ (disc_of_eq hk)
    rw [hkin, State.load_cfg, State.setKin_cfg, hser] at hcall
    exact hcall
  · obtain ⟨t, ht, hsh, ⟨htcfg, -, -, -, -, htreplies⟩, -⟩ :=
      (hinv.load hl).sized.exec_command_completesTo (i := .des) rfl (by decide) hin rfl
    have hscript := State.script_command (code := 5) (reads := [.rs, .rk]) (as := [1, 3]) hload rfl (hinv.load hl) ht
      htcfg.symm rfl (by simp)
    refine ⟨t.olen.toNat, { t with replies := t.replies ++ t.deserializeReplies }, t.deserializeReplies, ?_, ?_, ?_⟩
    · rw [deserializeLines, List.append_assoc]
      exact hscript
    · exact congrArg (· ++ _) htreplies.symm
    · rw [State.showsResult.readDeserialize hsh]
      exact congrArg some (recognised_value s.cfg 0x00 bytes)

end Sys2Proof.Machine

/-! SUPPORT. The byte-serial loops: what each leaves in `ACC`, `IDX` and `OBUF`, and that it ends as the atomic command does
(45_byte_serial.md R178 to R183). -/

namespace Sys2Proof.Machine

/-! ### Buffers -/

/-- A sequence stored in two parts, the second where the first ends. -/
theorem Memory.writeList_append (m : Memory) (i : Nat) (xs ys : List Byte) :
    Memory.writeList m i (xs ++ ys) = Memory.writeList (Memory.writeList m i xs) (i + xs.length) ys := by
  induction xs generalizing m i with
  | nil => rfl
  | cons x xs ih =>
    rw [List.cons_append, Memory.writeList, ih, Memory.writeList, List.length_cons, Nat.add_right_comm, Nat.add_assoc]

/-- A stored sequence is read back. -/
theorem Memory.readList_writeList (m : Memory) (i : Nat) (bs : List Byte) :
    Memory.readList (Memory.writeList m i bs) i bs.length = some bs := by
  refine (Memory.readList_eq_some _ _ _ _).2 ⟨rfl, fun k hk => ?_⟩
  rw [Memory.read_writeList, if_pos (by omega), Nat.add_sub_cancel_left]

/-- A sequence is read byte by byte. -/
theorem Memory.readList_cons {m : Memory} {i : Nat} {b : Byte} {bs : List Byte}
    (h : Memory.readList m i (b :: bs).length = some (b :: bs)) :
    Memory.read m i = some b ∧ Memory.readList m (i + 1) bs.length = some bs := by
  obtain ⟨-, hk⟩ := (Memory.readList_eq_some _ _ _ _).1 h
  refine ⟨hk 0 (Nat.succ_pos _), (Memory.readList_eq_some _ _ _ _).2 ⟨rfl, fun k hlt => ?_⟩⟩
  rw [Nat.add_assoc, Nat.add_comm 1 k, hk (k + 1) (Nat.succ_lt_succ hlt), List.getElem?_cons_succ]

/-- A part of the input sequence stands in `IBUF` at its place. -/
theorem State.inputIs.readList {s : State} {pre seg post : List Byte} (h : s.inputIs (pre ++ (seg ++ post))) :
    Memory.readList s.ibuf pre.length seg.length = some seg := by
  refine (Memory.readList_eq_some _ _ _ _).2 ⟨rfl, fun k hk => ?_⟩
  have hlt : pre.length + k < (pre ++ (seg ++ post)).length := by
    rw [List.length_append, List.length_append]
    omega
  obtain ⟨hlen, hread⟩ := h
  rw [hread _ (hlen ▸ hlt), List.getElem?_append_right (Nat.le_add_right _ _), Nat.add_sub_cancel_left,
    List.getElem?_append_left hk]

/-- The byte that a unit reads is that of the input sequence. -/
theorem State.inputIs.ibufByte {s : State} {bytes : List Byte} (h : s.inputIs bytes) {k : Nat} (hk : k < bytes.length) :
    s.ibufByte k = bytes[k] := by
  rw [State.ibufByte, h.read hk, Option.getD_some]

/-! ### Loops -/

/-- A micro-step walks: it leaves `IBUF` and advances `IDX` by 1 (10_state.md R23; log 15). -/
structure Walks (micro : State → State) : Prop where
  ibuf : ∀ s, (micro s).ibuf = s.ibuf
  idx : ∀ s, (micro s).idx = s.idx + 1

section
variable {micro : State → State} (hw : Walks micro)
include hw

theorem Walks.loop_idx (n : Nat) (s : State) : (State.loop n micro s).idx = s.idx + n := by
  induction n with
  | zero => rfl
  | succ n ih => rw [State.loop_succ, hw.idx, ih, Nat.add_assoc]

/-- The bytes still to come stand where the next micro-step reads. -/
theorem Walks.readList_micro {s : State} {b : Byte} {bs : List Byte}
    (h : Memory.readList s.ibuf s.idx (b :: bs).length = some (b :: bs)) :
    s.ibufByte s.idx = b ∧ Memory.readList (micro s).ibuf (micro s).idx bs.length = some bs := by
  obtain ⟨hb, hbs⟩ := Memory.readList_cons h
  rw [hw.ibuf, hw.idx, State.ibufByte, hb]
  exact ⟨rfl, hbs⟩

/-- A walk that feeds each byte it reads folds them (45_byte_serial.md R178). -/
theorem Walks.loop_acc (hacc : ∀ s, (micro s).acc = s.acc ^^^ s.ibufByte s.idx) {bs : List Byte} {s : State}
    (h : Memory.readList s.ibuf s.idx bs.length = some bs) :
    (State.loop bs.length micro s).acc = s.acc ^^^ xorfold bs := by
  induction bs generalizing s with
  | nil => exact BitVec.xor_zero.symm
  | cons b bs ih =>
    obtain ⟨hb, hbs⟩ := hw.readList_micro h
    rw [List.length_cons, State.loop, ih hbs, hacc, hb, xorfold_cons, BitVec.xor_assoc]

/-- A walk that stores each byte it reads, from some `IDX` on at rising cells, stores the sequence. -/
theorem Walks.loop_obuf {lo : Nat} {cell : Nat → Nat} (hcell : ∀ i, lo ≤ i → cell (i + 1) = cell i + 1)
    (hobuf : ∀ s, lo ≤ s.idx → (micro s).obuf = Memory.write s.obuf (cell s.idx) (s.ibufByte s.idx)) {bs : List Byte}
    {s : State} (hlo : lo ≤ s.idx) (h : Memory.readList s.ibuf s.idx bs.length = some bs) :
    (State.loop bs.length micro s).obuf = Memory.writeList s.obuf (cell s.idx) bs := by
  induction bs generalizing s with
  | nil => rfl
  | cons b bs ih =>
    obtain ⟨hb, hbs⟩ := hw.readList_micro h
    have hidx := hw.idx s
    rw [List.length_cons, State.loop, ih (by omega) hbs, hidx, hcell _ hlo, hobuf _ hlo, hb, Memory.writeList]

end

theorem walks_microFold : Walks microFold := ⟨fun _ => rfl, fun _ => rfl⟩

theorem walks_microEmit (shift : Nat) : Walks (microEmit shift) := ⟨fun _ => rfl, fun _ => rfl⟩

theorem walks_microCopyUp : Walks microCopyUp := ⟨fun _ => rfl, fun _ => rfl⟩

theorem walks_microCopyDown : Walks microCopyDown := ⟨fun _ => rfl, fun _ => rfl⟩

/-- A byte that DEC or RX takes is stored once `IDX` has reached the shift (45_byte_serial.md R180, R181). -/
theorem microTake_obuf (shift : Nat) (s : State) :
    (microTake shift s).obuf =
      if shift ≤ s.idx then Memory.write s.obuf (s.idx - shift) (s.ibufByte s.idx) else s.obuf := by
  unfold microTake
  split_ifs <;> rfl

theorem microTake_acc (shift : Nat) (s : State) : (microTake shift s).acc = s.acc ^^^ s.ibufByte s.idx := by
  unfold microTake
  split_ifs <;> rfl

theorem walks_microTake (shift : Nat) : Walks (microTake shift) where
  ibuf s := by
    unfold microTake
    split_ifs <;> rfl
  idx s := by
    unfold microTake
    split_ifs <;> rfl

/-! ### What each loop leaves -/

/-- What a command must leave alone, as one value (10_state.md R11). -/
def State.inputs (s : State) : Config × Byte × PortWord × Memory × List HostEvent × List PortWord :=
  (s.cfg, s.kin, s.ilen, s.ibuf, s.port, s.replies)

theorem State.sameInputs_of_inputs {s t : State} (h : t.inputs = s.inputs) : s.sameInputs t := by
  simpa only [State.inputs, State.sameInputs, Prod.mk.injEq] using h.symm

theorem dpAfter_sameInputs (i : Instr) (k : Nat) (s : State) : s.sameInputs (dpAfter i k s) :=
  State.sameInputs_of_inputs
    (dpAfter_keeps State.inputs (fun _ _ => rfl) (fun _ _ _ => rfl) (fun _ => rfl) (fun _ => rfl) i k s)

theorem dpFoldLoop_acc {s : State} {bytes : List Byte} (hin : s.inputIs bytes) :
    (dpFoldLoop bytes.length s).acc = xorfold bytes := by
  have h : Memory.readList s.ibuf 0 bytes.length = some bytes :=
    State.inputIs.readList (pre := []) (post := []) (by rwa [List.append_nil])
  exact (walks_microFold.loop_acc (fun _ => rfl) (s := s.start) h).trans BitVec.zero_xor

theorem dpFoldLoop_idx (k : Nat) (s : State) : (dpFoldLoop k s).idx = k :=
  (walks_microFold.loop_idx k s.start).trans (Nat.zero_add k)

section
variable {s : State} {seg post : List Byte}

/-- The first bytes of the input stand at the start of `IBUF`. -/
theorem State.inputIs.readList_front (hin : s.inputIs (seg ++ post)) : Memory.readList s.ibuf 0 seg.length = some seg :=
  State.inputIs.readList (pre := []) hin

theorem dpEncLoop_acc (hin : s.inputIs (seg ++ post)) : (dpEncLoop seg.length s).acc = checksum seg := by
  rw [checksum_eq_xor]
  refine ((walks_microEmit 1).loop_acc (fun _ => rfl) hin.readList_front).trans ?_
  exact congrArg (· ^^^ xorfold seg) BitVec.zero_xor

theorem dpEncLoop_idx (k : Nat) (s : State) : (dpEncLoop k s).idx = k :=
  ((walks_microEmit 1).loop_idx k _).trans (Nat.zero_add k)

theorem dpEncLoop_obuf (hin : s.inputIs (seg ++ post)) :
    (dpEncLoop seg.length s).obuf = Memory.writeList s.obuf 0 (delimiter :: seg) :=
  (walks_microEmit 1).loop_obuf (lo := 0) (cell := (· + 1)) (fun _ _ => rfl) (fun _ _ => rfl) (Nat.zero_le _)
    hin.readList_front

/-- The state in which TX's emitting loop begins: the delimiter and the Frame ID are out (45_byte_serial.md R181). -/
def State.txStart (s : State) : State :=
  (((s.start.putObuf 0 delimEmit).feed delimEmit).putObuf 1 (escOut s.kin)).feed (escOut s.kin)

theorem dpTxLoop_eq (k : Nat) (s : State) : dpTxLoop k s = State.loop k (microEmit 2) s.txStart := rfl

@[simp] theorem State.txStart_idx (s : State) : s.txStart.idx = 0 := by simp [State.txStart]
@[simp] theorem State.txStart_ibuf (s : State) : s.txStart.ibuf = s.ibuf := by simp [State.txStart]
@[simp] theorem State.txStart_acc (s : State) : s.txStart.acc = delimiter ^^^ s.kin := by
  simp [State.txStart, delimEmit, escOut]
@[simp] theorem State.txStart_obuf (s : State) :
    s.txStart.obuf = Memory.writeList s.obuf 0 [delimiter, s.kin] := by
  simp [State.txStart, delimEmit, escOut, Memory.writeList]

theorem State.txStart_readList (hin : s.inputIs (seg ++ post)) :
    Memory.readList s.txStart.ibuf s.txStart.idx seg.length = some seg := by
  rw [State.txStart_ibuf, State.txStart_idx, hin.readList_front]

theorem dpTxLoop_acc (hin : s.inputIs (seg ++ post)) : (dpTxLoop seg.length s).acc = checksum (s.kin :: seg) := by
  rw [checksum, xorfold_cons, xorfold_cons, ← BitVec.xor_assoc, dpTxLoop_eq,
    (walks_microEmit 2).loop_acc (fun _ => rfl) (State.txStart_readList hin), State.txStart_acc]

theorem dpTxLoop_idx (k : Nat) (s : State) : (dpTxLoop k s).idx = k := by
  rw [dpTxLoop_eq, (walks_microEmit 2).loop_idx, State.txStart_idx, Nat.zero_add]

theorem dpTxLoop_obuf (hin : s.inputIs (seg ++ post)) :
    (dpTxLoop seg.length s).obuf = Memory.writeList s.obuf 0 (delimiter :: s.kin :: seg) := by
  rw [dpTxLoop_eq, (walks_microEmit 2).loop_obuf (lo := 0) (cell := (· + 2)) (fun _ _ => rfl) (fun _ _ => rfl)
    (Nat.zero_le _) (State.txStart_readList hin), State.txStart_idx, State.txStart_obuf]
  exact (Memory.writeList_append s.obuf 0 [delimiter, s.kin] seg).symm

theorem dpSerLoop_acc (k : Nat) (s : State) : (dpSerLoop k s).acc = 0x00 :=
  State.loop_keeps State.acc microCopyUp (fun _ => rfl) k _

theorem dpSerLoop_idx (k : Nat) (s : State) : (dpSerLoop k s).idx = k :=
  (walks_microCopyUp.loop_idx k _).trans (Nat.zero_add k)

theorem dpSerLoop_obuf (hin : s.inputIs (seg ++ post)) :
    (dpSerLoop seg.length s).obuf = Memory.writeList s.obuf 0 (s.kin :: seg) :=
  walks_microCopyUp.loop_obuf (lo := 0) (cell := (· + 1)) (fun _ _ => rfl) (fun _ _ => rfl) (Nat.zero_le _)
    hin.readList_front

variable {b : Byte}

/-- The bytes after the first stand at index 1 of `IBUF`. -/
theorem State.inputIs.readList_tail (hin : s.inputIs (b :: (seg ++ post))) :
    Memory.readList s.ibuf 1 seg.length = some seg :=
  State.inputIs.readList (pre := [b]) hin

theorem dpDesLoop_acc (k : Nat) (s : State) : (dpDesLoop k s).acc = 0x00 :=
  State.loop_keeps State.acc microCopyDown (fun _ => rfl) k _

theorem dpDesLoop_idx (k : Nat) (s : State) : (dpDesLoop k s).idx = k + 1 :=
  (walks_microCopyDown.loop_idx k _).trans (Nat.add_comm 1 k)

theorem dpDesLoop_obuf (hin : s.inputIs (b :: (seg ++ post))) :
    (dpDesLoop seg.length s).obuf = Memory.writeList s.obuf 0 seg :=
  walks_microCopyDown.loop_obuf (lo := 1) (cell := (· - 1)) (fun i hi => by omega) (fun _ _ => rfl) (le_refl 1)
    hin.readList_tail

theorem dpTakeLoop_acc (shift : Nat) (hin : s.inputIs (b :: (seg ++ post))) :
    (dpTakeLoop shift seg.length s).acc = xorfold (b :: seg) := by
  have hb : s.ibufByte 0 = b := hin.ibufByte (Nat.succ_pos _)
  rw [dpTakeLoop, hb, xorfold_cons]
  refine ((walks_microTake shift).loop_acc (microTake_acc shift) hin.readList_tail).trans ?_
  exact congrArg (· ^^^ xorfold seg) BitVec.zero_xor

theorem dpTakeLoop_idx (shift k : Nat) (s : State) : (dpTakeLoop shift k s).idx = k + 1 :=
  ((walks_microTake shift).loop_idx k _).trans (Nat.add_comm 1 k)

/-- DEC stores every byte it takes after the delimiter (45_byte_serial.md R180). -/
theorem dpTakeLoop_one_obuf (hin : s.inputIs (b :: (seg ++ post))) :
    (dpTakeLoop 1 seg.length s).obuf = Memory.writeList s.obuf 0 seg :=
  (walks_microTake 1).loop_obuf (lo := 1) (cell := (· - 1)) (fun i hi => by omega)
    (fun t ht => (microTake_obuf 1 t).trans (if_pos ht)) (le_refl 1) hin.readList_tail

/-- RX takes the Frame ID byte without storing it (45_byte_serial.md R181). -/
theorem dpTakeLoop_two_obuf {fid : Byte} (hin : s.inputIs (b :: fid :: (seg ++ post))) :
    (dpTakeLoop 2 (seg.length + 1) s).obuf = Memory.writeList s.obuf 0 seg := by
  have hw := walks_microTake 2
  rw [dpTakeLoop, State.loop]
  generalize ht : (s.start.feed (s.ibufByte 0)).advance = t
  have hibuf : t.ibuf = s.ibuf := ht ▸ rfl
  have hidx : t.idx = 1 := ht ▸ rfl
  have hobuf : t.obuf = s.obuf := ht ▸ rfl
  have h : Memory.readList (microTake 2 t).ibuf (microTake 2 t).idx seg.length = some seg := by
    rw [hw.ibuf, hw.idx, hibuf, hidx]
    exact State.inputIs.readList (pre := [b, fid]) hin
  rw [hw.loop_obuf (lo := 2) (cell := (· - 2)) (fun i hi => by omega)
    (fun t ht => (microTake_obuf 2 t).trans (if_pos ht)) (by rw [hw.idx, hidx]) h, hw.idx, hidx, microTake_obuf, hidx,
    if_neg (by decide), hobuf]

end

/-! ### The statements about the loops (45_byte_serial.md) -/

/-- Settles O57: the loop has fed and stored the delimiter and the bytes it has stepped over. -/
theorem encLoopInvariant : Obligations.EncLoopInvariant := by
  intro s bytes k hin hk
  have hlen : (bytes.take k).length = k := List.length_take_of_le hk
  rw [← List.take_append_drop k bytes] at hin
  have hacc := dpEncLoop_acc hin
  have hobuf := dpEncLoop_obuf hin
  rw [hlen] at hacc hobuf
  refine ⟨_, rfl, hacc.trans (checksum_eq_xor _), dpEncLoop_idx k s, ?_⟩
  have hread := Memory.readList_writeList s.obuf 0 (delimiter :: bytes.take k)
  rw [List.length_cons, hlen] at hread
  rw [hobuf]
  exact hread

/-- Settles O58: the loop has fed byte 0 and the bytes it has stepped over, and stored all but byte 0. -/
theorem decLoopInvariant : Obligations.DecLoopInvariant := by
  intro s bytes k hin _ hk
  obtain _ | ⟨b, rest⟩ := bytes
  · cases hk
  · rw [List.length_cons] at hk
    have hlen : (rest.take k).length = k := List.length_take_of_le (by omega)
    rw [← List.take_append_drop k rest] at hin
    have hacc := dpTakeLoop_acc 1 hin
    have hobuf := dpTakeLoop_one_obuf hin
    rw [hlen] at hacc hobuf
    have hread := Memory.readList_writeList s.obuf 0 (rest.take k)
    rw [hlen] at hread
    exact ⟨_, rfl, hacc, dpTakeLoop_idx 1 k s, hobuf ▸ hread⟩

end Sys2Proof.Machine

/-! SUPPORT. How the byte-serial loops end: with the result, the hidden registers and the inputs of the atomic commands
(45_byte_serial.md R178, R183). -/

namespace Sys2Proof.Machine

/-! ### The end of a command -/

/-- A command that began in `s` ends in `t` with a result, after `idx` input bytes: the host finds the result, the inputs are
as before, `ACC` holds the checksum reported, and the sequencer is idle (10_state.md R22, R23; log 6). -/
structure State.EndsIn (s t : State) (r : CommandResult) (idx : Nat) : Prop where
  shows : t.showsResult r
  inputs : s.sameInputs t
  acc : t.acc = r.chk
  idx : t.idx = idx
  ph : t.ph = .idle

/-- Two ends of one command with one result cannot be told apart. -/
theorem State.EndsIn.same {s t u : State} {r : CommandResult} {idx : Nat} (ht : s.EndsIn t r idx) (hu : s.EndsIn u r idx) :
    t.sameOutputs u ∧ t.sameInputs u ∧ t.acc = u.acc ∧ t.idx = u.idx ∧ t.ph = u.ph := by
  obtain ⟨tcfg, tkin, tilen, tibuf, tport, treplies⟩ := ht.inputs
  obtain ⟨ucfg, ukin, uilen, uibuf, uport, ureplies⟩ := hu.inputs
  exact ⟨State.shows.sameOutputs ht.shows hu.shows,
    ⟨tcfg.symm.trans ucfg, tkin.symm.trans ukin, tilen.symm.trans uilen, tibuf.symm.trans uibuf, tport.symm.trans uport,
      treplies.symm.trans ureplies⟩,
    ht.acc.trans hu.acc.symm, ht.idx.trans hu.idx.symm, ht.ph.trans hu.ph.symm⟩

/-- The atomic commands end so. -/
theorem exec_command_endsIn {i : Instr} (hf : i.format = .cmd) (hn : i ≠ .nop) {s : State} (hs : s.Sized)
    {bytes : List Byte} (hin : s.inputIs bytes) :
    ∃ t, exec i s = .next t ∧ s.EndsIn t (commandResult s.cfg s.kin i bytes) (commandIdx s.cfg s.kin i bytes) := by
  refine ⟨_, exec_command_eq hf hn hin, ?_⟩
  obtain ⟨hsh, hinputs, hph, -⟩ := State.ran_deliver_completesTo (commandResult s.cfg s.kin i bytes).chk
    (commandIdx s.cfg s.kin i bytes) _ s (commandResult_out_length_lt_port hf hn hs hin)
  exact ⟨hsh, hinputs, rfl, rfl, hph⟩

section
variable {s t : State} {idx : Nat}

/-- A loop that fails raises its error over what it has left in the hidden registers. -/
theorem State.raise_endsIn (hinputs : s.sameInputs t) {chk : Byte} (hacc : t.acc = chk) (hidx : t.idx = idx)
    (e : FrameError) : s.EndsIn (t.raise e chk) (.error e chk) idx :=
  ⟨State.raise_shows e chk t, hinputs, hacc, hidx, rfl⟩

/-- The end of a loop is the completion with the output that the loop has stored from cell 0 on. -/
theorem State.finish_eq_deliver {m : Memory} {out : List Byte} (h : t.obuf = Memory.writeList m 0 out) (kout chk : Byte) :
    t.finish kout chk out.length = State.deliver (.ok kout chk out) { t with obuf := m } := by
  simp only [State.finish, State.deliver, State.complete, CommandResult.code_ok, CommandResult.kout_ok,
    CommandResult.chk_ok, CommandResult.out_ok, statusWord_codeOK, ← h]

/-- A loop that succeeds finishes with the output that it has stored. -/
theorem State.finish_endsIn (hinputs : s.sameInputs t) {chk : Byte} (hacc : t.acc = chk) (hidx : t.idx = idx)
    {m : Memory} {out : List Byte} (hobuf : t.obuf = Memory.writeList m 0 out) (hout : out.length < 2 ^ 16) (kout : Byte) :
    s.EndsIn (t.finish kout chk out.length) (.ok kout chk out) idx := by
  rw [State.finish_eq_deliver hobuf]
  exact ⟨State.deliver_shows _ _ hout, hinputs, hacc, hidx, rfl⟩

end

theorem State.start_sameInputs (s : State) : s.sameInputs s.start := ⟨rfl, rfl, rfl, rfl, rfl, rfl⟩

/-! ### CSUM, ENC, SER and TX -/

section
variable {s : State} {bytes : List Byte} (hin : s.inputIs bytes)
include hin

theorem dpCsum_endsIn : s.EndsIn (dpCsum s) (commandResult s.cfg s.kin .csum bytes) bytes.length := by
  rw [dpCsum, ← hin.length_eq, dpFoldLoop_acc hin]
  exact State.finish_endsIn (out := []) (dpAfter_sameInputs .csum bytes.length s) (dpFoldLoop_acc hin)
    (dpFoldLoop_idx _ s) rfl (Nat.two_pow_pos 16) 0xFF

theorem State.inputIs.append_nil : s.inputIs (bytes ++ []) := by rwa [List.append_nil]

variable (hs : s.Sized)
include hs

theorem State.Sized.input_length_lt : bytes.length + 3 < 2 ^ 16 := by
  have hport := Config.nmax_add_three_lt_port hs.cfg
  have hlen := hs.input_length_le hin
  omega

theorem dpEnc_endsIn : s.EndsIn (dpEnc s) (commandResult s.cfg s.kin .enc bytes) bytes.length := by
  have hacc := dpEncLoop_acc hin.append_nil
  have hlt := hs.input_length_lt hin
  have hobuf : ((dpEncLoop bytes.length s).putObuf (bytes.length + 1) (checksum bytes)).obuf =
      Memory.writeList s.obuf 0 (wireEncode bytes) := by
    rw [State.putObuf_obuf, dpEncLoop_obuf hin.append_nil, wireEncode_eq, ← List.cons_append, Memory.writeList_append,
      Nat.zero_add]
    rfl
  rw [dpEnc, ← hin.length_eq, hacc, ← wireEncode_length]
  exact State.finish_endsIn (t := (dpEncLoop bytes.length s).putObuf (bytes.length + 1) (checksum bytes))
    (dpAfter_sameInputs .enc bytes.length s) hacc (dpEncLoop_idx _ s) hobuf (by rw [wireEncode_length]; omega) 0xFF

theorem dpSer_endsIn :
    s.EndsIn (dpSer s) (commandResult s.cfg s.kin .ser bytes) (commandIdx s.cfg s.kin .ser bytes) := by
  have hlt := hs.input_length_lt hin
  rw [dpSer, ← hin.length_eq]
  simp only [commandResult, commandIdx, discriminated]
  cases disc s.cfg s.kin bytes.length with
  | error e => exact State.raise_endsIn s.start_sameInputs rfl rfl e
  | ok k =>
    exact State.finish_endsIn (out := s.kin :: bytes) (dpAfter_sameInputs .ser bytes.length s) (dpSerLoop_acc _ s)
      (dpSerLoop_idx _ s) (dpSerLoop_obuf hin.append_nil) (by rw [List.length_cons]; omega) 0xFF

theorem dpTx_endsIn :
    s.EndsIn (dpTx s) (commandResult s.cfg s.kin .tx bytes) (commandIdx s.cfg s.kin .tx bytes) := by
  have hacc := dpTxLoop_acc hin.append_nil
  have hlt := hs.input_length_lt hin
  have hlen : (wireEncode (s.kin :: bytes)).length = bytes.length + 3 := wireEncode_length _
  have hobuf : ((dpTxLoop bytes.length s).putObuf (bytes.length + 2) (checksum (s.kin :: bytes))).obuf =
      Memory.writeList s.obuf 0 (wireEncode (s.kin :: bytes)) := by
    rw [State.putObuf_obuf, dpTxLoop_obuf hin.append_nil, wireEncode_eq, ← List.cons_append, Memory.writeList_append,
      Nat.zero_add]
    rfl
  rw [dpTx, ← hin.length_eq]
  simp only [commandResult, commandIdx, discriminated]
  cases disc s.cfg s.kin bytes.length with
  | error e => exact State.raise_endsIn s.start_sameInputs rfl rfl e
  | ok k =>
    simp only [hacc, ← hlen]
    exact State.finish_endsIn
      (t := (dpTxLoop bytes.length s).putObuf (bytes.length + 2) (checksum (s.kin :: bytes)))
      (dpAfter_sameInputs .tx bytes.length s) hacc (dpTxLoop_idx _ s) hobuf (hlen ▸ hlt) 0xFF

end

/-! ### DES -/

/-- DES steps over no byte when DISC fails, and over all of them when it passes (45_byte_serial.md R181). -/
theorem discriminatedBytes_cons (c : Config) (fid : Byte) (args : List Byte) :
    discriminatedBytes c (fid :: args) = if (disc c fid args.length).isOk then args.length + 1 else 0 := by
  rw [discriminatedBytes, deserialize_cons]
  cases disc c fid args.length <;> rfl

theorem dpDes_endsIn {s : State} {bytes : List Byte} (hin : s.inputIs bytes) (hs : s.Sized) :
    s.EndsIn (dpDes s) (commandResult s.cfg s.kin .des bytes) (commandIdx s.cfg s.kin .des bytes) := by
  have hlt := hs.input_length_lt hin
  rw [dpDes, ← hin.length_eq]
  cases bytes with
  | nil => exact State.raise_endsIn s.start_sameInputs rfl rfl .truncatedPayload
  | cons fid args =>
    have hfid : s.ibufByte 0 = fid := hin.ibufByte (Nat.succ_pos _)
    rw [List.length_cons] at hlt
    rw [if_neg (by simp), hfid, List.length_cons, Nat.add_sub_cancel]
    simp only [commandResult, commandIdx, recognised, discriminated, discriminatedBytes_cons]
    cases disc s.cfg fid args.length with
    | error e => exact State.raise_endsIn s.start_sameInputs rfl rfl e
    | ok k =>
      exact State.finish_endsIn (dpAfter_sameInputs .des args.length s) (dpDesLoop_acc _ s) (dpDesLoop_idx _ s)
        (dpDesLoop_obuf (post := []) (by rwa [List.append_nil])) (by omega) fid

/-! ### DEC and RX -/

theorem validatedBytes_of_short {w : List Byte} (h : w.length < 2) : validatedBytes w = 0 := if_pos (.inl h)

theorem validatedBytes_of_head_ne {w : List Byte} (hl : 2 ≤ w.length) (hd : w.head? ≠ some delimiter) :
    validatedBytes w = 0 := by
  obtain _ | ⟨b, rest⟩ := w
  · simp at hl
  · exact if_pos (.inr (by simpa using hd))

theorem validatedBytes_frame (p : List Byte) (c : Byte) : validatedBytes (delimiter :: (p ++ [c])) = p.length + 1 := by
  rw [validatedBytes, if_neg (by simp), List.length_cons, List.length_append]
  rfl

/-- Taking bytes leaves the inputs, whatever the shift. -/
theorem dpTakeLoop_sameInputs (shift k : Nat) (s : State) : s.sameInputs (dpTakeLoop shift k s) := by
  have hmicro (t : State) : (microTake shift t).inputs = t.inputs := by
    unfold microTake
    split_ifs <;> rfl
  exact State.sameInputs_of_inputs (State.loop_keeps State.inputs (microTake shift) hmicro k _)

section
variable {s : State} {bytes : List Byte} (hin : s.inputIs bytes) (shift : Nat)

/-- On a frame VALID compares the last byte with what the loop has folded (45_byte_serial.md R180). -/
theorem dpValid_frame {p : List Byte} {c : Byte} (hin : s.inputIs (delimiter :: (p ++ [c]))) :
    dpValid shift s =
      if checksum p ≠ c then .error ((dpTakeLoop shift p.length s).raise .badChecksum (checksum p))
      else .ok (dpTakeLoop shift p.length s) := by
  have hn : s.n = p.length + 2 := by simpa using hin.length_eq.symm
  have hfirst : s.ibufByte 0 = delimiter := hin.ibufByte (Nat.succ_pos _)
  have hlast : s.ibufByte (p.length + 1) = c := by
    rw [hin.ibufByte (by simp)]
    simp
  have hacc : (dpTakeLoop shift p.length s).acc = checksum p := dpTakeLoop_acc shift hin
  rw [dpValid, hn, if_neg (by omega), hfirst, if_neg (by decide), Nat.add_sub_cancel,
    show p.length + 2 - 1 = p.length + 1 from rfl, hlast]
  simp only [hacc]

include hin

/-- VALID fails as the validator does, and on a frame of its payload it leaves what the loop has left. -/
theorem dpValid_cases :
    (∃ t e c, dpValid shift s = .error t ∧ (∀ next, validated bytes next = .error e c)
        ∧ s.EndsIn t (.error e c) (validatedBytes bytes))
      ∨ ∃ p, bytes = wireEncode p ∧ dpValid shift s = .ok (dpTakeLoop shift p.length s) := by
  obtain ⟨hl, -⟩ | ⟨hl, hd, -⟩ | ⟨p, c, rfl⟩ := validate_cases bytes
  · refine .inl ⟨_, .tooShort, 0x00, if_pos (hin.length_eq ▸ hl), fun next => validated_of_short next hl, ?_⟩
    exact State.raise_endsIn s.start_sameInputs rfl (validatedBytes_of_short hl).symm .tooShort
  · have hfirst : delimCheck (s.ibufByte 0) = false := by
      obtain _ | ⟨b, rest⟩ := bytes
      · simp at hl
      · rw [hin.ibufByte (Nat.succ_pos _)]
        exact beq_eq_false_iff_ne.2 (mt (congrArg some) hd)
    have hvalid : dpValid shift s = .error (s.start.raise .badDelimiter 0x00) := by
      rw [dpValid, ← hin.length_eq, if_neg hl.not_gt, if_pos hfirst]
    refine .inl ⟨_, .badDelimiter, 0x00, hvalid, fun next => validated_of_head_ne next hl hd, ?_⟩
    exact State.raise_endsIn s.start_sameInputs rfl (validatedBytes_of_head_ne hl hd).symm .badDelimiter
  · rw [validatedBytes_frame, dpValid_frame shift hin]
    by_cases hc : checksum p = c
    · subst hc
      exact .inr ⟨p, rfl, if_neg (not_not_intro rfl)⟩
    · refine .inl ⟨_, .badChecksum, checksum p, if_pos hc, fun next => validated_of_checksum_ne next hc, ?_⟩
      exact State.raise_endsIn (dpTakeLoop_sameInputs shift _ s) (dpTakeLoop_acc shift hin)
        (dpTakeLoop_idx shift _ s) .badChecksum

variable (hs : s.Sized)
include hs

theorem dpDec_endsIn : s.EndsIn (dpDec s) (commandResult s.cfg s.kin .dec bytes) (validatedBytes bytes) := by
  have hlt := hs.input_length_lt hin
  obtain ⟨t, e, c, hv, hresult, hend⟩ | ⟨p, rfl, hv⟩ := dpValid_cases hin 1 <;> simp only [dpDec, hv, commandResult]
  · rw [hresult]
    exact hend
  · have hacc : (dpTakeLoop 1 p.length s).acc = checksum p := dpTakeLoop_acc 1 hin
    rw [wireEncode_length] at hlt
    rw [validated_wireEncode, wireEncode_eq, validatedBytes_frame, hacc, ← hin.length_eq, wireEncode_length,
      Nat.add_sub_cancel]
    exact State.finish_endsIn (dpTakeLoop_sameInputs 1 _ s) hacc (dpTakeLoop_idx 1 _ s) (dpTakeLoop_one_obuf hin)
      (by omega) 0xFF

theorem dpRx_endsIn : s.EndsIn (dpRx s) (commandResult s.cfg s.kin .rx bytes) (validatedBytes bytes) := by
  have hlt := hs.input_length_lt hin
  obtain ⟨t, e, c, hv, hresult, hend⟩ | ⟨p, rfl, hv⟩ := dpValid_cases hin 2 <;> simp only [dpRx, hv, commandResult]
  · rw [hresult]
    exact hend
  · have hacc : (dpTakeLoop 2 p.length s).acc = checksum p := dpTakeLoop_acc 2 hin
    have hidx := dpTakeLoop_idx 2 p.length s
    have hinputs := dpTakeLoop_sameInputs 2 p.length s
    have hn : s.n = p.length + 2 := hin.length_eq.symm.trans (wireEncode_length p)
    rw [wireEncode_length] at hlt
    rw [validated_wireEncode, wireEncode_eq, validatedBytes_frame, hacc, hn, Nat.add_sub_cancel]
    cases p with
    | nil => exact State.raise_endsIn hinputs hacc hidx .truncatedPayload
    | cons fid args =>
      have hfid : s.ibufByte 1 = fid := hin.ibufByte (Nat.succ_lt_succ (Nat.succ_pos _))
      rw [if_neg (by simp), hfid, List.length_cons, show args.length + 1 + 2 - 3 = args.length from rfl]
      simp only [recognised, discriminated]
      cases disc s.cfg fid args.length with
      | error e => exact State.raise_endsIn hinputs hacc hidx e
      | ok k =>
        rw [List.length_cons] at hlt
        exact State.finish_endsIn hinputs hacc hidx (dpTakeLoop_two_obuf hin) (by omega) fid

end

/-! ### XACC -/

/-- Feeding a sequence is the fold from what `ACC` held. -/
theorem State.foldl_feed_acc (bs : List Byte) (s : State) :
    (bs.foldl (fun t b => State.feed b t) s).acc = xorfoldFrom s.acc bs := by
  induction bs generalizing s with
  | nil => rfl
  | cons b bs ih => exact ih (s.feed b)

/-- VALID's failures report what has been folded (45_byte_serial.md R180). -/
theorem dpValid_error_chk {shift : Nat} {s t : State} (h : dpValid shift s = .error t) : t.chk = t.acc := by
  unfold dpValid at h
  split_ifs at h
  · cases h
    rfl
  · cases h
    rfl
  · simp only at h
    split_ifs at h
    cases h
    rfl

theorem dpDec_chk (s : State) : (dpDec s).chk = (dpDec s).acc := by
  rw [dpDec]
  cases hv : dpValid 1 s with
  | error t => exact dpValid_error_chk hv
  | ok t => rfl

theorem dpRx_chk (s : State) : (dpRx s).chk = (dpRx s).acc := by
  rw [dpRx]
  cases hv : dpValid 2 s with
  | error t => exact dpValid_error_chk hv
  | ok t =>
    simp only
    split_ifs
    · rfl
    · cases disc s.cfg (s.ibufByte 1) (s.n - 3) <;> rfl

theorem dpSer_chk (s : State) : (dpSer s).chk = 0x00 := by
  rw [dpSer]
  cases disc s.cfg s.kin s.n <;> rfl

theorem dpDes_chk (s : State) : (dpDes s).chk = 0x00 := by
  rw [dpDes]
  split_ifs
  · rfl
  · cases disc s.cfg (s.ibufByte 0) (s.n - 1) <;> rfl

theorem dpTx_chk (s : State) : (dpTx s).chk = (dpTx s).acc := by
  rw [dpTx]
  cases disc s.cfg s.kin s.n <;> rfl

/-- Settles O56: feeding is the fold, and every end of a loop reports `ACC` but those of SER and DES, which feed nothing. -/
theorem xaccFoldsWhatItIsFed : Obligations.XaccFoldsWhatItIsFed := by
  refine ⟨fun s bs => State.foldl_feed_acc bs s.start, fun s i hf hn => ?_⟩
  rcases Instr.cmd_cases hf hn with rfl | rfl | rfl | rfl | rfl | rfl | rfl
  · rfl
  · rfl
  · exact dpDec_chk s
  · exact dpSer_chk s
  · exact dpDes_chk s
  · exact dpTx_chk s
  · exact dpRx_chk s

/-! ### The statement about the loops (45_byte_serial.md) -/

/-- Every byte-serial loop ends with the result of its command. -/
theorem dpRun_endsIn {i : Instr} (hf : i.format = .cmd) (hn : i ≠ .nop) {s : State} (hs : s.Sized) {bytes : List Byte}
    (hin : s.inputIs bytes) :
    s.EndsIn (dpRun i s) (commandResult s.cfg s.kin i bytes) (commandIdx s.cfg s.kin i bytes) := by
  rcases Instr.cmd_cases hf hn with rfl | rfl | rfl | rfl | rfl | rfl | rfl
  · exact dpCsum_endsIn hin
  · exact dpEnc_endsIn hin hs
  · exact dpDec_endsIn hin hs
  · exact dpSer_endsIn hin hs
  · exact dpDes_endsIn hin hs
  · exact dpTx_endsIn hin hs
  · exact dpRx_endsIn hin hs

/-- Settles O60: the loop and the atomic command end with one result, and NOP has no loop. -/
theorem byteSerialLoopsComputeTheCommands : Obligations.ByteSerialLoopsComputeTheCommands := by
  intro s i hs hf hwritten
  by_cases hn : i = .nop
  · subst hn
    exact ⟨s, rfl, ⟨rfl, rfl, rfl, rfl, fun _ => rfl⟩, ⟨rfl, rfl, rfl, rfl, rfl, rfl⟩, rfl, rfl, rfl⟩
  · cases hb : s.input with
    | none => exact absurd hwritten (s.input_eq_none.1 hb)
    | some bytes =>
      have hin := (s.input_eq_some bytes).1 hb
      obtain ⟨t, ht, hend⟩ := exec_command_endsIn hf hn hs hin
      exact ⟨t, ht, hend.same (dpRun_endsIn hf hn hs hin)⟩

end Sys2Proof.Machine
